-- ==== Sys2Proof/Word.lean ====
section
/-!
DEFINITION. The values of the block: unsigned words of 32 and 64 bits, and bytes (00_scope.md R12).
-/
namespace Sys2Proof

/-- A 32-bit value: one register of the block (R9, R48). -/
abbrev Word := BitVec 32

/-- A 64-bit value: the counter, a command word, a bus record (R22, R63, R69). -/
abbrev DWord := BitVec 64

/-- One byte of a stored command word or bus record. -/
abbrev Byte := BitVec 8

end Sys2Proof
end

