-- ==== Sys2Proof/Config.lean ====
section
/-!
DEFINITION. What is fixed for a machine and what the spec leaves open: the source's constants (R8, R9), the named
parameters (R10), the names of agents, registers and refusal reasons, the moves an environment may choose (R7, R76),
and the free values (the free countdown policies, `Config.freePolicy`, are in Machine/Policy.lean).
-/
namespace Sys2Proof

/-! ## Names -/

/-- The agents of R7. -/
inductive Agent where
  | tick
  | reader (k : Nat)
  | event
  | irqh
  | rst
  | host
  | platform
  deriving DecidableEq, Repr, Inhabited

/-- Who issues an operation: HOST, or IRQH (R35). IRQH issues for the callback, and takes IRQ_ENTRY itself (R124). -/
inductive Issuer where
  | host
  | irqh
  deriving DecidableEq, Repr, Inhabited

/-- The direction of a bus transaction (R41, R69). -/
inductive Dir where
  | read
  | write
  deriving DecidableEq, Repr, Inhabited

/-- The two formats of 30_encoding.md: command words (R64) and bus records (R69). -/
inductive Format where
  | cmd
  | bus
  deriving DecidableEq, Repr, Inhabited

/-- The seven memory-mapped registers (R46). -/
inductive Reg where
  | cntLo
  | cntHi
  | load
  | ctrl
  | rst20
  | rst24
  | rst2C
  deriving DecidableEq, Repr, Inhabited

/-- The refusal reasons of R143, recorded with the refusal mark. `reservedRecordBits` and `shortWord` are the model's
own names for refusals to which the spec gives none (log entries 16 and 6). -/
inductive Reason where
  | illegalOpcode
  | reservedCommandBits
  | nonZeroOperand
  | commandNotIssuable
  | callbackOpNotAllowed
  | armZeroDelta
  | unmappedAccess
  | irqWithoutHandler
  | resetReentered
  | bootRepeated
  | reservedCtrlValue
  | badOffset
  | badWidth
  | misaligned
  | badDirection
  | notOwner
  | badParameters
  | reservedRecordBits
  | shortWord
  deriving DecidableEq, Repr, Inhabited

/-- The fault reasons of R142: there is one. -/
inductive FaultReason where
  | eventPathRace
  deriving DecidableEq, Repr, Inhabited

/-- The byte-lane order `P_BYTE_ORDER`: read by no rule (R51). -/
inductive ByteOrder where
  | little
  | big
  deriving DecidableEq, Repr, Inhabited

/-! ## The source's constants (R8, R9) -/

/-- The minimum programmable countdown, in ticks. -/
def Config.minDelta : Word := 1#32

/-- The maximum programmable countdown, in ticks. -/
def Config.maxDelta : Word := 0xF0000000#32

/-- The guard value ARM writes first (R9). -/
def Config.guardValue : Word := 0xFFFFFFFF#32

/-- The clock-source mask: 64 bits, no truncation. -/
def Config.csMask : DWord := 0xFFFFFFFFFFFFFFFF#64

/-- The one clock-source flag and the one clock-event feature the source names. -/
inductive Feature where
  | continuous
  | oneshot
  deriving DecidableEq, Repr

/-! ## The countdown unit's state and policy -/

/-- What a latch policy acts on: `(LOAD, CTRL, CUR, EN, PEND)` (R109). -/
structure Countdown where
  /-- LOAD, the countdown-value register (R26). -/
  load : Word
  /-- CTRL, the control register (R27). -/
  ctrl : Word
  /-- CUR, the active countdown (R31). -/
  cur : Word
  /-- EN, the counting enable (R32). -/
  en : Bool
  /-- PEND, the interrupt-pending flag (R32). -/
  pend : Bool
  deriving DecidableEq, Repr, Inhabited

/-- `P_LATCH_POLICY` (R10, R109): the reference policy REF, or by its number a policy of which nothing is known but that it
meets R118 (`Config.freePolicy`; log entry 10). -/
inductive LatchPolicy where
  | ref
  | free (n : Nat)
  deriving DecidableEq, Repr, Inhabited

/-! ## The named parameters (R10) -/

/-- The named parameters of R10. `P_CNT_HI_OFF` is not listed: it is `cntLoOff + 4`. -/
structure Params where
  base : Nat
  regionSize : Nat
  cntLoOff : Nat
  loadOff : Nat
  ctrlOff : Nat
  stop : Word
  run : Word
  update : Word
  irq : Nat
  clockHz : Nat
  csRating : Nat
  ceRating : Nat
  csName : String
  compat : Option String
  byteOrder : Option ByteOrder
  spuriousIrq : Bool
  policy : LatchPolicy
  deriving DecidableEq, Repr

/-- The reference values of R10: the spec's own choice, no claim about the chip (log entry 9). -/
def Params.reference : Params where
  base := 0x1000
  regionSize := 0x30
  cntLoOff := 0x00
  loadOff := 0x08
  ctrlOff := 0x0C
  stop := 0x1#32
  run := 0x2#32
  update := 0x4#32
  irq := 0
  clockHz := 1000000
  csRating := 0
  ceRating := 0
  csName := "timer"
  compat := none
  byteOrder := none
  spuriousIrq := false
  policy := .ref

/-! ## What the outside may choose (R7, R76, R77) -/

/-- How BOOT's steps 1 and 2 end: success with the OS's handler reference, or one of the two aborts (R162, R164, R165). -/
inductive BootInput where
  | ok (handler : Nat)
  | configError
  | allocFailure
  deriving DecidableEq, Repr, Inhabited

/-- One move of the interleaving (R7, R55): which agent steps next, with what it brings from outside the block. -/
inductive Move where
  /-- TICK takes one step (R90). -/
  | tick
  /-- HOST issues a command word (R65). -/
  | host (w : DWord)
  /-- HOST starts BOOT (R162). -/
  | boot (b : BootInput)
  /-- HOST takes the next step of a BOOT under way. -/
  | bootStep
  /-- READER(k) takes its next bus step (R97), or, having returned, ends at IDLE (R33). -/
  | reader (k : Nat)
  /-- EVENT takes its next bus step (R115, R122). -/
  | event
  /-- The interrupt controller invokes IRQH: IRQ_ENTRY (R124, R146). -/
  | irq
  /-- IRQH takes its next step: H1, H2, issuing a callback operation, RET (R125). -/
  | irqh
  /-- HOST's callback answers at step CB with a finite list of command words (R126). -/
  | answer (ops : List DWord)
  /-- RST takes its next bus step (R132). -/
  | rst
  /-- PLATFORM takes the system reset (R136). -/
  | sysreset
  /-- Traffic from outside the block's sequences presents a bus record, in the name of agent `a` (R71, R80; log entry 14). -/
  | bus (a : Agent) (w : DWord)
  /-- Traffic from outside the block's sequences presents a raw access of `bytes` bytes at an absolute address, in the name
  of agent `a` (R47-R49, R80, R88; log entry 14). -/
  | access (a : Agent) (d : Dir) (addr bytes : Nat) (v : Word)
  deriving DecidableEq, Repr, Inhabited

/-! ## Free values -/

/-- The move taken when the script says none (R7: any enabled step of any agent; log entry 1). -/
opaque Config.freeMove : Nat → Move

/-- The counter value drawn at a system reset (R137; log entry 4). -/
opaque Config.freeCnt : Nat → DWord

/-- A 32-bit value drawn at a system reset (R137; log entry 4). -/
opaque Config.freeWord : Nat → Word

/-- A 1-bit value drawn at a system reset (R137; log entry 4). -/
opaque Config.freeBit : Nat → Bool

end Sys2Proof
end

