-- ==== Sys2Proof/Syntax.lean ====
section
/-!
DEFINITION. The rows of spec/opcode_table.json, one constructor each: the five operations of format CMD
(30_encoding.md R65) and the seven bus transactions of format BUS (R70).
-/
namespace Sys2Proof

/-- An operation of the block, or one bus transaction of it (00_scope.md R6). -/
inductive Instr where
  /-- READ64, command code 0x01: read the 64-bit tick counter (R95). -/
  | read64
  /-- ARM, command code 0x02: one interrupt `delta` ticks from now (R114). -/
  | arm (delta : Word)
  /-- DISABLE, command code 0x03: halt the countdown and clear its pending state (R122). -/
  | disable
  /-- RESET, command code 0x04: the five reset-controller writes (R131). -/
  | reset
  /-- IRQ_ENTRY, command code 0x05: the interrupt handler (R125). -/
  | irqEntry
  /-- RD_CNT_LO: read the counter-low register (R81). `data` is the record's DATA field. -/
  | rdCntLo (data : Word)
  /-- RD_CNT_HI: read the counter-high register (R82). `data` is the record's DATA field. -/
  | rdCntHi (data : Word)
  /-- WR_LOAD: write the countdown-value register (R83). -/
  | wrLoad (v : Word)
  /-- WR_CTRL: write the control register (R84). -/
  | wrCtrl (v : Word)
  /-- WR_RST_20: write the reset-controller register at 0x20 (R85). -/
  | wrRst20 (v : Word)
  /-- WR_RST_24: write the reset-controller register at 0x24 (R86). -/
  | wrRst24 (v : Word)
  /-- WR_RST_2C: write the reset-controller register at 0x2C (R87). -/
  | wrRst2C (v : Word)
  deriving DecidableEq, Repr

end Sys2Proof
end

