-- ==== Sys2Proof/WellFormed.lean ====
section
/-!
DEFINITION. The checks of 00_scope.md R10 on a choice of parameters, and which instructions are well formed for such a
choice: only WR_CTRL's operand is restricted (30_encoding.md R72).
-/
namespace Sys2Proof

/-! ## Parameters (R10) -/

/-- The byte offsets of the seven registers (R46). -/
def Params.offsets (p : Params) : List Nat :=
  [p.cntLoOff, p.cntLoOff + 4, p.loadOff, p.ctrlOff, 0x20, 0x24, 0x2C]

/-- `P_BASE` and every offset are multiples of 4 (R10, R49). -/
def Params.alignedOk (p : Params) : Bool :=
  p.base % 4 == 0 && p.cntLoOff % 4 == 0 && p.loadOff % 4 == 0 && p.ctrlOff % 4 == 0

/-- The four timer offsets are pairwise distinct and distinct from 0x20, 0x24 and 0x2C (R10). -/
def Params.distinctOk (p : Params) : Bool := decide p.offsets.Nodup

/-- The region holds every register (R10: `P_REGION_SIZE` is at least every admitted offset plus 4). -/
def Params.regionOk (p : Params) : Bool := p.offsets.all (fun o => o + 4 ≤ p.regionSize)

/-- Every offset fits the 12 bits of a bus record's OFF field (R69). R10 does not ask for it: a machine without it runs,
and only its transactions at the wider offsets have no record (DEDUCED; log entry 11). -/
def Params.recordable (p : Params) : Bool := p.offsets.all (fun o => o < 4096)

/-- Exactly one bit of a mask is set. -/
def oneBit (m : Word) : Bool := (List.range 32).any (fun i => m == BitVec.twoPow 32 i)

/-- The three masks are single bits, pairwise distinct (R10). -/
def Params.masksOk (p : Params) : Bool :=
  oneBit p.stop && oneBit p.run && oneBit p.update &&
    p.stop != p.run && p.stop != p.update && p.run != p.update

/-- All the constraints of R10. The one on `P_LATCH_POLICY` is met by every value of its type (`LatchPolicy`). -/
def Params.wf (p : Params) : Bool :=
  p.alignedOk && p.distinctOk && p.regionOk && p.masksOk && decide (0 < p.clockHz)

/-! ## Instructions -/

/-- The four values that may be written to `CTRL` (R28, R72). -/
def Params.ctrlValues (p : Params) : List Word := [p.stop, p.run, p.update, p.run ||| p.update]

/-- An instruction is well formed when its fields have an encoding the spec admits (R70, R72). -/
def Instr.wf (p : Params) : Instr → Bool
  | .read64 => true
  | .arm _ => true
  | .disable => true
  | .reset => true
  | .irqEntry => true
  | .rdCntLo _ => true
  | .rdCntHi _ => true
  | .wrLoad _ => true
  | .wrCtrl v => p.ctrlValues.contains v
  | .wrRst20 _ => true
  | .wrRst24 _ => true
  | .wrRst2C _ => true

end Sys2Proof
end

