-- ==== Sys2Proof/Decode.lean ====
section
/-!
DEFINITION. The decoders of the two formats (30_encoding.md R64-R73), the register map they read (20_memory.md R46), the
encoder written from the same tables, and `decodeTableWord` for the host.
-/
namespace Sys2Proof

/-! ## Bit fields (R12) -/

/-- `v[63:32]`. -/
def hi32 (v : DWord) : Word := v.extractLsb' 32 32

/-- `v[31:0]`. -/
def lo32 (v : DWord) : Word := v.extractLsb' 0 32

/-- `zext_64(v)`. -/
def zext64 (v : Word) : DWord := v.setWidth 64

/-- The 64-bit value with halves `hi` and `lo`: `(zext_64(hi) << 32) | zext_64(lo)` (R12, R100). -/
def pair (hi lo : Word) : DWord := (zext64 hi <<< 32) ||| zext64 lo

/-! ## The register map (R46) -/

/-- The byte offset of a register from `P_BASE` (R46). -/
def regOffset (p : Params) : Reg → Nat
  | .cntLo => p.cntLoOff
  | .cntHi => p.cntLoOff + 4
  | .load => p.loadOff
  | .ctrl => p.ctrlOff
  | .rst20 => 0x20
  | .rst24 => 0x24
  | .rst2C => 0x2C

/-- The absolute address of a register (R45, R94). -/
def regAddr (p : Params) (r : Reg) : Nat := p.base + regOffset p r

/-- The register at a byte offset (R46, R47). -/
def regAt (p : Params) (off : Nat) : Option Reg :=
  if off = p.cntLoOff then some .cntLo
  else if off = p.cntLoOff + 4 then some .cntHi
  else if off = p.loadOff then some .load
  else if off = p.ctrlOff then some .ctrl
  else if off = 0x20 then some .rst20
  else if off = 0x24 then some .rst24
  else if off = 0x2C then some .rst2C
  else none

/-- The one direction in which a register may be accessed (R46). -/
def regDir : Reg → Dir
  | .cntLo => .read
  | .cntHi => .read
  | .load => .write
  | .ctrl => .write
  | .rst20 => .write
  | .rst24 => .write
  | .rst2C => .write

/-- The transaction on a register in its admitted direction (R70). -/
def regInstr (v : Word) : Reg → Instr
  | .cntLo => .rdCntLo v
  | .cntHi => .rdCntHi v
  | .load => .wrLoad v
  | .ctrl => .wrCtrl v
  | .rst20 => .wrRst20 v
  | .rst24 => .wrRst24 v
  | .rst2C => .wrRst2C v

/-- The transaction at a byte offset, or why it is refused (R47, R49, R71, R88; the order of the checks is log entry 15).
A WR_CTRL value outside R72 is refused where the transaction is run, by R84's own first check (log entry 28). -/
def transactionAt (p : Params) (d : Dir) (off : Nat) (v : Word) : Except Reason Instr :=
  if off % 4 ≠ 0 then .error .misaligned
  else match regAt p off with
    | none => .error .badOffset
    | some r =>
      if d ≠ regDir r then .error .badDirection
      else .ok (regInstr v r)

/-! ## Decoding -/

/-- The decoder for a command word (R67). -/
def decodeCmd (w : DWord) : Except Reason Instr :=
  let opc := w.extractLsb' 0 8
  let res := w.extractLsb' 8 24
  let opnd := hi32 w
  if res ≠ 0#24 then .error .reservedCommandBits
  else if opc = 0x01#8 then (if opnd ≠ 0#32 then .error .nonZeroOperand else .ok .read64)
  else if opc = 0x02#8 then .ok (.arm opnd)
  else if opc = 0x03#8 then (if opnd ≠ 0#32 then .error .nonZeroOperand else .ok .disable)
  else if opc = 0x04#8 then (if opnd ≠ 0#32 then .error .nonZeroOperand else .ok .reset)
  else if opc = 0x05#8 then (if opnd ≠ 0#32 then .error .nonZeroOperand else .ok .irqEntry)
  else .error .illegalOpcode

/-- The decoder for a bus record (R69-R71). DESIGN CHOICE: for a record that is wrong in several ways the spec orders no
checks; the RES bits are tested first, then alignment, offset and direction (log entries 15 and 16). -/
def decodeBus (p : Params) (w : DWord) : Except Reason Instr :=
  if w.extractLsb' 17 15 ≠ 0#15 ∨ w.extractLsb' 12 4 ≠ 0#4 then .error .reservedRecordBits
  else
    transactionAt p (if w.extractLsb' 16 1 = 1#1 then .write else .read) (w.extractLsb' 0 12).toNat (hi32 w)

/-- Decode one 64-bit value of a format (R74). -/
def decodeWord (p : Params) : Format → DWord → Except Reason Instr
  | .cmd, w => decodeCmd w
  | .bus, w => decodeBus p w

/-- A 64-bit value from 8 stored bytes, the least significant first (the order is the model's choice, R63; log entry 6). -/
def wordOfBytes (b0 b1 b2 b3 b4 b5 b6 b7 : Byte) : DWord := b7 ++ b6 ++ b5 ++ b4 ++ b3 ++ b2 ++ b1 ++ b0

/-- The 8 stored bytes of a 64-bit value, the least significant first. -/
def bytesOfWord (w : DWord) : List Byte := (List.range 8).map (fun i => w.extractLsb' (8 * i) 8)

/-- Decode stored bytes: exactly 8 are consumed (R63), the rest is handed back. -/
def decodeBytes (p : Params) (f : Format) : List Byte → Except Reason (Instr × List Byte)
  | b0 :: b1 :: b2 :: b3 :: b4 :: b5 :: b6 :: b7 :: rest =>
    match decodeWord p f (wordOfBytes b0 b1 b2 b3 b4 b5 b6 b7) with
    | .ok i => .ok (i, rest)
    | .error e => .error e
  | _ => .error .shortWord

/-! ## Encoding -/

/-- A bus record (R69): DATA at 63:32, DIR at 16, OFF at 11:0. -/
def busRecord (d : Dir) (off : Nat) (v : Word) : DWord :=
  pair v ((if d = .write then 0x10000#32 else 0#32) ||| (BitVec.ofNat 12 off).setWidth 32)

/-- The format an instruction is written in (R65, R70). -/
def Instr.format : Instr → Format
  | .read64 => .cmd
  | .arm _ => .cmd
  | .disable => .cmd
  | .reset => .cmd
  | .irqEntry => .cmd
  | .rdCntLo _ => .bus
  | .rdCntHi _ => .bus
  | .wrLoad _ => .bus
  | .wrCtrl _ => .bus
  | .wrRst20 _ => .bus
  | .wrRst24 _ => .bus
  | .wrRst2C _ => .bus

/-- The 64-bit word of an instruction, in its format (R64, R65, R69, R70). -/
def encode (p : Params) : Instr → DWord
  | .read64 => pair 0#32 0x01#32
  | .arm d => pair d 0x02#32
  | .disable => pair 0#32 0x03#32
  | .reset => pair 0#32 0x04#32
  | .irqEntry => pair 0#32 0x05#32
  | .rdCntLo v => busRecord .read (regOffset p .cntLo) v
  | .rdCntHi v => busRecord .read (regOffset p .cntHi) v
  | .wrLoad v => busRecord .write (regOffset p .load) v
  | .wrCtrl v => busRecord .write (regOffset p .ctrl) v
  | .wrRst20 v => busRecord .write (regOffset p .rst20) v
  | .wrRst24 v => busRecord .write (regOffset p .rst24) v
  | .wrRst2C v => busRecord .write (regOffset p .rst2C) v

/-- The stored bytes of an instruction. -/
def encodeBytes (p : Params) (i : Instr) : List Byte := bytesOfWord (encode p i)

/-! ## The host's view of the opcode table -/

/-- Which format an opcode-table word is read in (log entry 12). The table lists both formats; one word, 4, belongs to
both. A row given as 64 bits is tried as a command word first, a row given as fewer bits (its mask leaves DATA out) as
a bus record first. -/
def tableFormat (p : Params) (nbits : Nat) (w : DWord) : Format :=
  if nbits ≤ 32 then
    match decodeBus p w with
    | .ok _ => .bus
    | .error _ => .cmd
  else
    match decodeCmd w with
    | .ok _ => .cmd
    | .error _ => .bus

/-- The 64-bit word of a table row's low `nbits` bits: the bits above are zero. -/
def tableWord (nbits w : Nat) : DWord := BitVec.ofNat 64 (w % 2 ^ nbits)

/-- What the decoder reads from an opcode-table word, at the reference parameters. -/
def decodeTableWord (nbits w : Nat) : Option Instr :=
  let v := tableWord nbits w
  match decodeBytes Params.reference (tableFormat Params.reference nbits v) (bytesOfWord v) with
  | .ok (i, _) => some i
  | .error _ => none

end Sys2Proof
end

