-- ==== Sys2Proof/Machine/Policy.lean ====
section
/-!
DEFINITION. Countdown policies (42_event_scheduler.md R109): the reference policy REF (R110-R113), the obligations O1 to
O5 on every policy (R118), and the free policies, which meet them by their type.
-/
namespace Sys2Proof.Machine

/-- The three masks of the control register (R28). -/
structure Masks where
  stop : Word
  run : Word
  update : Word
  deriving DecidableEq, Repr

/-- A countdown policy (R109): three functions over `(LOAD, CTRL, CUR, EN, PEND)`. -/
structure Policy where
  loadWrite : Word → Countdown → Countdown
  ctrlWrite : Word → Countdown → Countdown
  tick : Countdown → Countdown

/-! ## The reference policy REF (R110-R113) -/

/-- REF `load_write(v)` (R110). -/
def refLoadWrite (v : Word) (c : Countdown) : Countdown := { c with load := v }

/-- REF `ctrl_write(v)` (R111): STOP halts and clears; any other value latches LOAD, and RUN decides whether it counts. -/
def refCtrlWrite (m : Masks) (v : Word) (c : Countdown) : Countdown :=
  if v = m.stop then { c with en := false, pend := false }
  else { c with cur := c.load, en := decide (v &&& m.run ≠ 0#32) }

/-- REF `tick()` (R112): the countdown fires when it is at most 1, and stops there (R113). -/
def refTick (c : Countdown) : Countdown :=
  if c.en then
    if c.cur ≤ 1#32 then { c with cur := 0#32, en := false, pend := true }
    else { c with cur := c.cur - 1#32 }
  else c

/-- REF, for a choice of masks. -/
def refPolicy (m : Masks) : Policy where
  loadWrite := refLoadWrite
  ctrlWrite := refCtrlWrite m
  tick := refTick

/-! ## What can reach the countdown -/

/-- A tick, a WR_LOAD, a WR_CTRL. -/
inductive TimerOp where
  | tick
  | load (v : Word)
  | ctrl (v : Word)
  deriving DecidableEq, Repr

/-- One of them under a policy; a WR_CTRL stores its value before the control action (R84). -/
def Policy.op (P : Policy) (c : Countdown) : TimerOp → Countdown
  | .tick => P.tick c
  | .load v => P.loadWrite v c
  | .ctrl v => P.ctrlWrite v { c with ctrl := v }

/-- A sequence of them. -/
def Policy.run (P : Policy) (ops : List TimerOp) (c : Countdown) : Countdown := ops.foldl P.op c

/-- `n` ticks. -/
def ticks (n : Nat) : List TimerOp := List.replicate n .tick

/-- ARM's A1 and `g1` ticks, up to but not including A2 (R115). -/
def armToA2 (g1 : Nat) : List TimerOp := [.load Config.guardValue] ++ ticks g1

/-- ARM's A2 and A3 with `g2` and `g3` ticks after them, up to but not including A4 (R115): the guard counts. -/
def guardWindow (m : Masks) (delta : Word) (g2 g3 : Nat) : List TimerOp :=
  [.ctrl (m.run ||| m.update)] ++ ticks g2 ++ [.load delta] ++ ticks g3

/-- ARM's writes with `g1`, `g2`, `g3` ticks between them, up to but not including A4 (R115). -/
def armToA4 (m : Masks) (delta : Word) (g1 g2 g3 : Nat) : List TimerOp := armToA2 g1 ++ guardWindow m delta g2 g3

/-- ARM's four writes with ticks between them. -/
def armOps (m : Masks) (delta : Word) (g1 g2 g3 : Nat) : List TimerOp := armToA4 m delta g1 g2 g3 ++ [.ctrl m.run]

/-- DISABLE's two writes with `g` ticks between them (R122). -/
def disableOps (m : Masks) (g : Nat) : List TimerOp := [.ctrl m.update] ++ ticks g ++ [.ctrl m.stop]

/-- An operation that is no CTRL write. -/
def TimerOp.notCtrl : TimerOp → Bool
  | .tick => true
  | .load _ => true
  | .ctrl _ => false

/-- An operation that is no RUN write (R118 O2). -/
def TimerOp.notRun (m : Masks) : TimerOp → Bool
  | .tick => true
  | .load _ => true
  | .ctrl v => v == m.stop || v == m.update

/-- How many ticks a sequence holds. -/
def tickCount (ops : List TimerOp) : Nat := ops.countP (· == .tick)

/-! ## The obligations on every policy (R118; log entry 10) -/

/-- O1: with PEND clear at A4 and no CTRL write after it, PEND becomes 1 on exactly the N-th tick, and stays 1 (R32). -/
def Policy.MeetsO1 (P : Policy) (m : Masks) : Prop :=
  ∀ (c : Countdown) (delta : Word) (g1 g2 g3 : Nat) (ops : List TimerOp), delta ≠ 0#32 →
    (P.run (armToA4 m delta g1 g2 g3) c).pend = false → ops.all TimerOp.notCtrl = true →
    (P.run (armOps m delta g1 g2 g3 ++ ops) c).pend = decide (delta.toNat ≤ tickCount ops)

/-- O2: after DISABLE's writes, EN and PEND are clear and CTRL is STOP; nothing but a RUN write lets a tick set PEND. -/
def Policy.MeetsO2 (P : Policy) (m : Masks) : Prop :=
  ∀ (c : Countdown) (g : Nat) (ops : List TimerOp), ops.all (TimerOp.notRun m) = true →
    (P.run (disableOps m g) c).en = false ∧ (P.run (disableOps m g) c).pend = false ∧
      (P.run (disableOps m g) c).ctrl = m.stop ∧ (P.run (disableOps m g ++ ops) c).pend = false

/-- O3: DISABLE on a stopped timer with nothing pending sets PEND at no point. -/
def Policy.MeetsO3 (P : Policy) (m : Masks) : Prop :=
  ∀ (c : Countdown) (g : Nat), c.en = false → c.pend = false →
    (P.run ([.ctrl m.update] ++ ticks g) c).pend = false ∧ (P.run (disableOps m g) c).pend = false

/-- O4: ARM(a), with ticks anywhere in it, then ARM(b) with no tick between a's A4 and b's A2: the countdown is that of
ARM(b) alone, from where ARM(a) started; what an interrupt had made pending by then stays pending (R121). -/
def Policy.MeetsO4 (P : Policy) (m : Masks) : Prop :=
  ∀ (c : Countdown) (a b : Word) (g1 g2 g3 h2 h3 : Nat), a ≠ 0#32 → b ≠ 0#32 →
    P.run (armOps m a g1 g2 g3 ++ armOps m b 0 h2 h3) c =
      P.run (armOps m b 0 h2 h3) { c with pend := (P.run (armOps m a g1 g2 g3) c).pend }

/-- O5: between A2 and A4 nothing fires unless `0xFFFFFFFF` ticks fall there. A fire is PEND going from clear to set (R32,
R145), so: whatever PEND was when A2 was taken, once it is clear at a point of that window it is clear at every later one. -/
def Policy.MeetsO5 (P : Policy) (m : Masks) : Prop :=
  ∀ (c : Countdown) (delta : Word) (g1 g2 g3 : Nat) (before between after : List TimerOp), delta ≠ 0#32 →
    g2 + g3 < 0xFFFFFFFF → guardWindow m delta g2 g3 = before ++ between ++ after →
    (P.run (armToA2 g1 ++ before) c).pend = false → (P.run (armToA2 g1 ++ before ++ between) c).pend = false

/-- A policy meeting R118: what R10 asks of `P_LATCH_POLICY`. -/
structure Policy.Admissible (P : Policy) (m : Masks) : Prop where
  o1 : P.MeetsO1 m
  o2 : P.MeetsO2 m
  o3 : P.MeetsO3 m
  o4 : P.MeetsO4 m
  o5 : P.MeetsO5 m

end Sys2Proof.Machine

namespace Sys2Proof

/-- The free policies: a number names an admissible policy for the masks, or none. Nothing else is known of them
(R10, R109; log entry 10). -/
opaque Config.freePolicy (m : Machine.Masks) (n : Nat) : Option { P : Machine.Policy // P.Admissible m }

end Sys2Proof
end

