-- ==== Sys2Proof/Machine/Countdown.lean ====
section
/-!
DEFINITION. The countdown unit: the policy the parameter `P_LATCH_POLICY` names (42_event_scheduler.md R109), and what a
tick, a WR_LOAD and a WR_CTRL do to the countdown under it.
-/
namespace Sys2Proof.Machine

/-- The three masks among the parameters (R10, R28). -/
def masksOf (p : Params) : Masks := { stop := p.stop, run := p.run, update := p.update }

/-- The policy `P_LATCH_POLICY` names: every one of them meets R118 when the parameters meet R10. A number that names no
free policy names REF (log entry 10). -/
def latchPolicy (p : Params) : Policy :=
  match p.policy with
  | .ref => refPolicy (masksOf p)
  | .free n =>
    match Config.freePolicy (masksOf p) n with
    | some P => P.val
    | none => refPolicy (masksOf p)

/-- `P_LATCH_POLICY.load_write` (R109). -/
def loadWrite (p : Params) (v : Word) (c : Countdown) : Countdown := (latchPolicy p).loadWrite v c

/-- `P_LATCH_POLICY.ctrl_write` (R109). -/
def ctrlWrite (p : Params) (v : Word) (c : Countdown) : Countdown := (latchPolicy p).ctrlWrite v c

/-- `P_LATCH_POLICY.tick` (R109). -/
def countdownTick (p : Params) (c : Countdown) : Countdown := (latchPolicy p).tick c

/-- What WR_LOAD does to the countdown's registers (R83). -/
def writeLoad (p : Params) (v : Word) (c : Countdown) : Countdown := loadWrite p v c

/-- What WR_CTRL does to the countdown's registers (R84): the value is stored, then the control action is performed. -/
def writeCtrl (p : Params) (v : Word) (c : Countdown) : Countdown := ctrlWrite p v { c with ctrl := v }

/-- A sequence of ticks and writes under the policy the parameters name. -/
def timerRun (p : Params) (ops : List TimerOp) (c : Countdown) : Countdown := (latchPolicy p).run ops c

end Sys2Proof.Machine
end

