-- ==== Sys2Proof/Machine/State.lean ====
section
/-!
DEFINITION. The state of the block (10_state.md): registers, countdown, sequencers, driver-boundary state, history and
marks, and the model's own fields; the reasons a step can stop; the state after power-on (R43, R160).
-/
namespace Sys2Proof.Machine

/-- READER(k).step (R33). -/
inductive ReaderStep where
  | idle
  | s1
  | s2
  | s3
  | s4
  | done
  deriving DecidableEq, Repr

/-- EVENT.step (R33). -/
inductive EventStep where
  | idle
  | a1
  | a2
  | a3
  | a4
  | d1
  | d2
  deriving DecidableEq, Repr

/-- IRQH.step (R33). -/
inductive IrqStep where
  | idle
  | h1
  | h2
  | cb
  | ret
  deriving DecidableEq, Repr

/-- RST.step (R33). -/
inductive RstStep where
  | idle
  | s1
  | s2
  | s3
  | s4
  | s5
  | halted
  deriving DecidableEq, Repr

/-- How far the lifecycle shim's BOOT has come (R162; log entry 19): the next thing it does. -/
inductive BootStep where
  | idle
  /-- step 3: issue DISABLE. -/
  | disable (handler : Nat)
  /-- step 4, once DISABLE has returned: register the clock event device. -/
  | registerCe (handler : Nat)
  /-- step 5: register the interrupt handler. -/
  | registerIrq
  /-- step 6: register the clock source. -/
  | registerCs
  /-- step 7: expose RESET. -/
  | expose
  deriving DecidableEq, Repr

/-- One READ64 under way or done (R34). -/
structure Reader where
  step : ReaderStep
  hi1 : Word
  lo : Word
  hi2 : Word
  hi : Word
  deriving DecidableEq, Repr

/-- The EVENT sequencer (R33, R35). -/
structure EventSeq where
  step : EventStep
  delta : Word
  issuer : Issuer
  deriving DecidableEq, Repr

/-- The IRQH sequencer (R33, R36). `answered` and `wait` are the model's own (log entry 18). -/
structure IrqSeq where
  step : IrqStep
  active : Bool
  /-- IRQH.pending_ops: the callback's operations not yet issued, as command words. -/
  pendingOps : List DWord
  /-- Step CB has invoked the callback. -/
  answered : Bool
  /-- The agent whose return IRQH waits for. -/
  wait : Option Agent
  deriving DecidableEq, Repr

/-- What an operation returns (R79). -/
inductive Result where
  | value (v : DWord)
  | ok
  | errUnavailable
  | unit
  | handled
  deriving DecidableEq, Repr

/-- One entry of the history H (R41). -/
inductive Event where
  | bus (a : Agent) (d : Dir) (off : Nat) (v : Word)
  | tick
  | callback
  | ret (a : Agent) (r : Result)
  | sysreset
  deriving DecidableEq, Repr

/-- The state of the block and its driver boundary. -/
structure State where
  /-- The named parameters (R10), fixed for a run. -/
  params : Params
  /-- CNT (R22). -/
  cnt : DWord
  /-- LOAD, CTRL, CUR, EN, PEND (R26, R27, R31, R32). -/
  timer : Countdown
  /-- RSTV[0x20] (R30). -/
  rst20 : Word
  /-- RSTV[0x24] (R30). -/
  rst24 : Word
  /-- RSTV[0x2C] (R30). -/
  rst2C : Word
  /-- READER(k) is entry k; a READER not listed is idle (R33, R34). -/
  readers : List Reader
  /-- EVENT (R33, R35). -/
  event : EventSeq
  /-- IRQH (R33, R36). -/
  irqh : IrqSeq
  /-- RST.step (R33, R37). -/
  rst : RstStep
  /-- MAPPED (R38). -/
  mapped : Bool
  /-- HANDLER (R39): an opaque reference. -/
  handler : Option Nat
  /-- REG_CE (R39). -/
  regCe : Bool
  /-- REG_CS (R39). -/
  regCs : Bool
  /-- IRQ_REQ (R39). -/
  irqReq : Bool
  /-- H (R41), oldest first. -/
  hist : List Event
  /-- FAULT (R42): a set, kept without repeats. -/
  faults : List FaultReason
  /-- REFUSED (R42). -/
  refused : Bool
  /-- The model's own: the reason of the last refusal (R143; log entry 7). -/
  lastRefusal : Option Reason
  /-- The model's own: BOOT's progress (R162; log entry 19). -/
  boot : BootStep
  /-- The model's own: who issues the command being run (log entry 2). -/
  issuer : Issuer
  /-- The model's own: which agent performs the bus transaction being run (log entry 2). -/
  master : Agent
  /-- The model's own: the value the last bus read returned (R13; log entry 5). -/
  busData : Word
  /-- The model's own: the moves the outside takes next (R76, R77; log entry 1). -/
  script : List Move
  /-- The model's own: how many free values have been drawn (log entries 1 and 4). -/
  draws : Nat
  deriving DecidableEq, Repr

/-- Why a step stops the machine. The spec's fault, EventPathRace, is no such stop: it is recorded in FAULT and the
machine goes on (R13, R128, R142). -/
inductive Fault where
  /-- Raised by a script that asks RST for a step at HALTED: RST is stuck for good (R135, R144). Safe: the machine stops
  where the spec has no step. -/
  | stuckHalted
  deriving DecidableEq, Repr

/-- Why a step has no meaning. The spec's refusals are no such stop: they set REFUSED and the machine goes on (R143). -/
inductive Refusal where
  /-- Raised by an arm of exec whose instruction has no meaning yet. Safe. -/
  | notModelled (mnemonic : String)
  /-- Raised by a script that asks for a step that is not enabled (R76: the program is ill-formed). Safe. -/
  | moveNotEnabled
  deriving DecidableEq, Repr

/-- A READER that has just been issued (R96); its locals are read only after they are written (R34; log entry 5). -/
def Reader.fresh : Reader := { step := .s1, hi1 := 0#32, lo := 0#32, hi2 := 0#32, hi := 0#32 }

/-- The state after power-on (R43, R160). The spec states no value for a register: zero is the model's (log entry 3). -/
def State.reset : State where
  params := Params.reference
  cnt := 0#64
  timer := { load := 0#32, ctrl := 0#32, cur := 0#32, en := false, pend := false }
  rst20 := 0#32
  rst24 := 0#32
  rst2C := 0#32
  readers := []
  event := { step := .idle, delta := 0#32, issuer := .host }
  irqh := { step := .idle, active := false, pendingOps := [], answered := false, wait := none }
  rst := .idle
  mapped := false
  handler := none
  regCe := false
  regCs := false
  irqReq := false
  hist := []
  faults := []
  refused := false
  lastRefusal := none
  boot := .idle
  issuer := .host
  master := .host
  busData := 0#32
  script := []
  draws := 0

end Sys2Proof.Machine
end

