-- ==== Sys2Proof/Machine/Flags.lean ====
section
/-!
DEFINITION. The block has no status flags (10_state.md R40). What stands here are the one-bit conditions its steps read:
the interrupt line (R32, R145), EVENT_BUSY (R108) and the enabling of IRQ_ENTRY (R124).
-/
namespace Sys2Proof.Machine

/-- IRQ_LINE: equal to PEND at every instant (R32, R145). -/
def State.irqLine (s : State) : Bool := s.timer.pend

/-- EVENT_BUSY (R108). -/
def State.eventBusy (s : State) : Bool :=
  decide (s.event.step ≠ .idle) || decide (s.irqh.step = .h1) || decide (s.irqh.step = .h2)

/-- IRQ_ENTRY is enabled as a step of IRQH (R124). -/
def State.irqEnabled (s : State) : Bool :=
  s.irqReq && !s.irqh.active && decide (s.event.step = .idle) && (s.irqLine || s.params.spuriousIrq)

/-- The numeric code of a result that has one (R79). -/
def Result.code : Result → Option Nat
  | .ok => some 0
  | .errUnavailable => some 1
  | .value _ => none
  | .unit => none
  | .handled => none

end Sys2Proof.Machine
end

