-- ==== Sys2Proof/Machine/Ops.lean ====
section
/-!
DEFINITION. The named operations on the state: the history, the marks and returns (R13, R41, R42), one bus transaction
(R50, R80), taking the interrupt and returning from it (R148, R150), the tick (R90) and the system reset (R137).
-/
namespace Sys2Proof.Machine

/-- How a meaning ends. -/
abbrev Answer := Host.Outcome State Fault Refusal

/-! ## History, marks, returns -/

/-- Append one record to H (R41). -/
def State.record (s : State) (e : Event) : State := { s with hist := s.hist ++ [e] }

/-- `refuse(reason)`: REFUSED is set, and nothing else of the block changes (R13, R42, R143; log entry 7). -/
def State.refuse (s : State) (r : Reason) : State := { s with refused := true, lastRefusal := some r }

/-- `raise Fault(reason)`: the reason joins FAULT (R13, R42, R142; log entry 8). -/
def State.raiseFault (s : State) (f : FaultReason) : State :=
  { s with faults := if s.faults.contains f then s.faults else s.faults ++ [f] }

/-- An operation of an agent returns: H gains the record (R41, R79), and IRQH no longer waits for that agent (R125). -/
def State.ret (s : State) (a : Agent) (r : Result) : State :=
  { s.record (.ret a r) with
    irqh := { s.irqh with wait := if s.irqh.wait = some a then none else s.irqh.wait } }

/-- The operation being issued is IRQH's: IRQH waits for the agent that runs it (R125: "wait until op has returned"). -/
def State.awaited (s : State) (a : Agent) : State :=
  { s with irqh := { s.irqh with wait := if s.issuer = .irqh then some a else s.irqh.wait } }

/-! ## Bus transactions -/

/-- Which agents may access a register (R53). -/
def permitted (r : Reg) (a : Agent) : Bool :=
  match r, a with
  | .cntLo, .reader _ => true
  | .cntHi, .reader _ => true
  | .load, .event => true
  | .load, .irqh => true
  | .ctrl, .event => true
  | .ctrl, .irqh => true
  | .rst20, .rst => true
  | .rst24, .rst => true
  | .rst2C, .rst => true
  | _, _ => false

/-- Why a transaction of the current bus agent on a register is refused, if it is (R53, R81; order: log entry 15). -/
def busCheck (r : Reg) (s : State) : Option Reason :=
  if permitted r s.master = false then some .notOwner
  else if s.mapped = false then some .unmappedAccess
  else none

/-- The value a register holds (R22-R30). -/
def State.regValue (s : State) : Reg → Word
  | .cntLo => lo32 s.cnt
  | .cntHi => hi32 s.cnt
  | .load => s.timer.load
  | .ctrl => s.timer.ctrl
  | .rst20 => s.rst20
  | .rst24 => s.rst24
  | .rst2C => s.rst2C

/-- `MemRead` of a register (R13): one atomic step, recorded in H; the value goes to the agent's side of the bus. -/
def busRead (r : Reg) (s : State) : Answer :=
  match busCheck r s with
  | some e => .next (s.refuse e)
  | none =>
    .next { s.record (.bus s.master .read (regOffset s.params r) (s.regValue r)) with busData := s.regValue r }

/-- `MemWrite` of a register (R13): one atomic step, recorded in H, with the effect the register's rule gives. -/
def busWrite (r : Reg) (v : Word) (effect : State → State) (s : State) : Answer :=
  match busCheck r s with
  | some e => .next (s.refuse e)
  | none => .next (effect (s.record (.bus s.master .write (regOffset s.params r) v)))

/-! ## The interrupt -/

/-- Taking the interrupt (R148): no register changes; IRQH becomes active and starts at H1 (R125). -/
def State.takeInterrupt (s : State) : State :=
  { s with irqh := { step := .h1, active := true, pendingOps := [], answered := false, wait := none } }

/-- The handler's return (R150): nothing is restored; IRQH is idle and inactive again and has returned HANDLED. -/
def State.returnFromInterrupt (s : State) : State :=
  { s with irqh := { step := .idle, active := false, pendingOps := [], answered := false, wait := none } }.ret .irqh .handled

/-! ## The tick and the system reset -/

/-- TICK (R90): the counter and the countdown advance by one tick in one step. -/
def State.tick (s : State) : State :=
  { s with cnt := s.cnt + 1#64, timer := countdownTick s.params s.timer }.record .tick

/-- A READER that has ended or is abandoned is idle; its locals are dead (R33, R34, R137; log entries 20 and 21). -/
def Reader.toIdle (r : Reader) : Reader := { r with step := .idle }

/-- SYSRESET's effect (R137): every sequencer abandoned, every register drawn afresh (log entry 4), nothing mapped or
registered; H, FAULT and REFUSED are kept. -/
def State.systemReset (s : State) : State :=
  { s with
    cnt := Config.freeCnt s.draws
    timer :=
      { load := Config.freeWord s.draws
        ctrl := Config.freeWord (s.draws + 1)
        cur := Config.freeWord (s.draws + 2)
        en := Config.freeBit s.draws
        pend := Config.freeBit (s.draws + 1) }
    rst20 := Config.freeWord (s.draws + 3)
    rst24 := Config.freeWord (s.draws + 4)
    rst2C := Config.freeWord (s.draws + 5)
    draws := s.draws + 6
    readers := s.readers.map Reader.toIdle
    event := { s.event with step := .idle }
    irqh := { step := .idle, active := false, pendingOps := [], answered := false, wait := none }
    rst := .idle
    mapped := false
    handler := none
    regCe := false
    regCs := false
    irqReq := false
    boot := .idle }.record .sysreset

end Sys2Proof.Machine
end

