-- ==== Sys2Proof/Machine/Operands.lean ====
section
/-!
DEFINITION. The operand forms. A command's only operand is ARM's delta, which the decoder hands over (30_encoding.md
R66). A bus access names its register by address: here a raw access of some width at an absolute address is read as the
transaction it is, or refused (20_memory.md R45-R49, R62; 40_register_interface.md R88).
-/
namespace Sys2Proof.Machine

/-- The transaction a raw access makes, or why it is refused (R47-R49, R88; the order of the checks is log entry 15). -/
def accessInstr (p : Params) (d : Dir) (addr bytes : Nat) (v : Word) : Except Reason Instr :=
  if bytes ≠ 4 then .error .badWidth
  else if addr % 4 ≠ 0 then .error .misaligned
  else if addr < p.base then .error .badOffset
  else transactionAt p d (addr - p.base) v

/-- The register a bus transaction accesses; none for a command. -/
def busReg : Instr → Option Reg
  | .read64 => none
  | .arm _ => none
  | .disable => none
  | .reset => none
  | .irqEntry => none
  | .rdCntLo _ => some .cntLo
  | .rdCntHi _ => some .cntHi
  | .wrLoad _ => some .load
  | .wrCtrl _ => some .ctrl
  | .wrRst20 _ => some .rst20
  | .wrRst24 _ => some .rst24
  | .wrRst2C _ => some .rst2C

/-- Whether a bus transaction of the current bus agent is admitted: its agent and MAPPED (R53, R81-R87), and for WR_CTRL
the value (R84). -/
def busAdmitted (i : Instr) (s : State) : Bool :=
  match busReg i with
  | none => false
  | some r => (busCheck r s).isNone && i.wf s.params

end Sys2Proof.Machine
end

