-- ==== Sys2Proof/Machine/CounterReader.lean ====
section
/-!
DEFINITION. The monotonic counter reader (41_counter_reader.md): issuing READ64, the read-read-test-read sequence of a
READER, and its end.
-/
namespace Sys2Proof.Machine

/-- A new READER at step 1 (R96), awaited by IRQH when the callback issued it (R125). -/
def State.startReader (s : State) : State :=
  { s with readers := s.readers ++ [Reader.fresh] }.awaited (.reader s.readers.length)

/-- READ64 (R95, R96): issuing it creates a READER; an unmapped base refuses it. -/
def execRead64 (s : State) : Answer :=
  if s.mapped = false then .next (s.refuse .unmappedAccess)
  else .next s.startReader

/-- READER(k), when it has been issued. -/
def State.reader? (s : State) (k : Nat) : Option Reader := s.readers[k]?

/-- Replace READER(k). -/
def State.setReader (s : State) (k : Nat) (r : Reader) : State := { s with readers := s.readers.set k r }

/-- The next bus transaction of a READER (R97); the DATA of a read is an output. -/
def Reader.nextInstr (r : Reader) : Option Instr :=
  match r.step with
  | .s1 => some (.rdCntHi 0#32)
  | .s2 => some (.rdCntLo 0#32)
  | .s3 => some (.rdCntHi 0#32)
  | .s4 => some (.rdCntLo 0#32)
  | .idle => none
  | .done => none

/-- What a READER does with the value its transaction returned (R97-R99). -/
def Reader.advance (r : Reader) (v : Word) : Reader :=
  match r.step with
  | .s1 => { r with hi1 := v, step := .s2 }
  | .s2 => { r with lo := v, step := .s3 }
  | .s3 => if r.hi1 = v then { r with hi2 := v, hi := r.hi1, step := .done } else { r with hi2 := v, hi := v, step := .s4 }
  | .s4 => { r with lo := v, step := .done }
  | .idle => r
  | .done => r

/-- READ64's result, when the READER is done: `{hi, lo}` (R100). -/
def Reader.result (r : Reader) : DWord := pair r.hi r.lo

/-- READER(k) after its transaction: its locals, its step index, and its return when it is done (R97). -/
def State.readerAfter (s : State) (k : Nat) : State :=
  match s.reader? k with
  | none => s
  | some r =>
    let r' := r.advance s.busData
    let s' := s.setReader k r'
    if r'.step = .done then s'.ret (.reader k) (.value r'.result) else s'

/-- READER(k) has returned and is not idle again yet (R97). -/
def State.readerDone (s : State) (k : Nat) : Bool := (s.reader? k).any (fun r => decide (r.step = .done))

/-- READER(k) ends by setting its step index back to IDLE (R33): a step of its own after DONE, with no bus transaction and
no record (log entry 21). -/
def State.retireReader (s : State) (k : Nat) : State :=
  match s.reader? k with
  | none => s
  | some r => s.setReader k r.toIdle

end Sys2Proof.Machine
end

