-- ==== Sys2Proof/Machine/EventScheduler.lean ====
section
/-!
DEFINITION. The one-shot event scheduler (42_event_scheduler.md): ARM, DISABLE and IRQ_ENTRY as they are issued, the
write sequences of EVENT (R115, R122), and IRQH's own steps (R125).
-/
namespace Sys2Proof.Machine

/-! ## ARM and DISABLE -/

/-- EVENT starts an operation at a step, for the current issuer (R35). -/
def State.startEvent (s : State) (step : EventStep) (delta : Word) : State :=
  { s with event := { step := step, delta := delta, issuer := s.issuer } }.awaited .event

/-- ARM (R114-R117), its checks in the pseudocode's order (R147). -/
def execArm (delta : Word) (s : State) : Answer :=
  if s.mapped = false then .next (s.ret .event .errUnavailable)
  else if delta = 0#32 then .next (s.refuse .armZeroDelta)
  else if s.eventBusy then .next (s.raiseFault .eventPathRace)
  else .next (s.startEvent .a1 delta)

/-- DISABLE (R122). It leaves EVENT.delta as it is. -/
def execDisable (s : State) : Answer :=
  if s.mapped = false then .next (s.refuse .unmappedAccess)
  else if s.eventBusy then .next (s.raiseFault .eventPathRace)
  else .next (s.startEvent .d1 s.event.delta)

/-- The next bus transaction of EVENT (R115, R122). -/
def eventInstr (s : State) : Option Instr :=
  match s.event.step with
  | .a1 => some (.wrLoad Config.guardValue)
  | .a2 => some (.wrCtrl (s.params.run ||| s.params.update))
  | .a3 => some (.wrLoad s.event.delta)
  | .a4 => some (.wrCtrl s.params.run)
  | .d1 => some (.wrCtrl s.params.update)
  | .d2 => some (.wrCtrl s.params.stop)
  | .idle => none

/-- EVENT at another step. -/
def State.setEventStep (s : State) (step : EventStep) : State := { s with event := { s.event with step := step } }

/-- EVENT after its transaction: the next step, or idle and returned (R115, R122). -/
def State.eventAfter (s : State) : State :=
  match s.event.step with
  | .a1 => s.setEventStep .a2
  | .a2 => s.setEventStep .a3
  | .a3 => s.setEventStep .a4
  | .a4 => (s.setEventStep .idle).ret .event .ok
  | .d1 => s.setEventStep .d2
  | .d2 => (s.setEventStep .idle).ret .event .unit
  | .idle => s

/-! ## IRQ_ENTRY -/

/-- IRQ_ENTRY (R68, R124, R125). HOST may not issue it; in a callback answer it is not allowed; otherwise the interrupt
controller invokes it, and the interrupt is taken where R124 enables it. The unmapped check is log entry 27. -/
def execIrqEntry (s : State) : Answer :=
  match s.issuer with
  | .host => .next (s.refuse .commandNotIssuable)
  | .irqh =>
    if s.irqh.step = .cb then .next (s.refuse .callbackOpNotAllowed)
    else if s.irqEnabled = false then .refused .moveNotEnabled
    else if s.mapped = false then .next (s.refuse .unmappedAccess)
    else if s.handler = none then .next (s.refuse .irqWithoutHandler)
    else .next s.takeInterrupt

/-- The next bus transaction of IRQH (R125, H1 and H2). -/
def irqhInstr (s : State) : Option Instr :=
  match s.irqh.step with
  | .h1 => some (.wrCtrl s.params.update)
  | .h2 => some (.wrCtrl s.params.stop)
  | .idle => none
  | .cb => none
  | .ret => none

/-- IRQH at another step. -/
def State.setIrqStep (s : State) (step : IrqStep) : State := { s with irqh := { s.irqh with step := step } }

/-- IRQH after its transaction (R125). -/
def State.irqhAfter (s : State) : State :=
  match s.irqh.step with
  | .h1 => s.setIrqStep .h2
  | .h2 => s.setIrqStep .cb
  | .idle => s
  | .cb => s
  | .ret => s

/-- Step CB invokes the callback, which answers with a list of operations (R125, R126). -/
def State.callback (s : State) (ops : List DWord) : State :=
  { s with irqh := { s.irqh with pendingOps := ops, answered := true } }.record .callback

/-- The callback's answer is used up: IRQH goes to step RET (R125). -/
def State.callbackDone (s : State) : State :=
  { s with irqh := { s.irqh with step := .ret, answered := false } }

/-- IRQH takes the next operation of the answer to issue it (R126): it acts as the issuer. -/
def State.takeOp (s : State) (ops : List DWord) : State :=
  { s with irqh := { s.irqh with pendingOps := ops }, issuer := .irqh }

end Sys2Proof.Machine
end

