-- ==== Sys2Proof/Machine/RegisterInterface.lean ====
section
/-!
DEFINITION. The meanings of the seven bus transactions (40_register_interface.md R81-R87). The agent that performs one
is `State.master`.
-/
namespace Sys2Proof.Machine

/-- RD_CNT_LO (R81). The record's DATA is what a read returns, so it is not read here (log entry 13). -/
def execRdCntLo (_data : Word) (s : State) : Answer := busRead .cntLo s

/-- RD_CNT_HI (R82). -/
def execRdCntHi (_data : Word) (s : State) : Answer := busRead .cntHi s

/-- WR_LOAD (R83). -/
def execWrLoad (v : Word) (s : State) : Answer :=
  busWrite .load v (fun t => { t with timer := writeLoad t.params v t.timer }) s

/-- WR_CTRL (R84): the value check comes first. -/
def execWrCtrl (v : Word) (s : State) : Answer :=
  if s.params.ctrlValues.contains v = false then .next (s.refuse .reservedCtrlValue)
  else busWrite .ctrl v (fun t => { t with timer := writeCtrl t.params v t.timer }) s

/-- WR_RST_20 (R85). -/
def execWrRst20 (v : Word) (s : State) : Answer := busWrite .rst20 v (fun t => { t with rst20 := v }) s

/-- WR_RST_24 (R86). -/
def execWrRst24 (v : Word) (s : State) : Answer := busWrite .rst24 v (fun t => { t with rst24 := v }) s

/-- WR_RST_2C (R87). -/
def execWrRst2C (v : Word) (s : State) : Answer := busWrite .rst2C v (fun t => { t with rst2C := v }) s

end Sys2Proof.Machine
end

