-- ==== Sys2Proof/Machine/ResetSequencer.lean ====
section
/-!
DEFINITION. The reset sequencer (43_reset_sequencer.md): RESET as it is issued, and the five writes of RST.
-/
namespace Sys2Proof.Machine

/-- RESET (R131-R133, R138). In a callback answer it is not allowed (R126). -/
def execReset (s : State) : Answer :=
  match s.issuer with
  | .irqh => .next (s.refuse .callbackOpNotAllowed)
  | .host =>
    if s.mapped = false then .next (s.ret .rst .unit)
    else if s.rst ≠ .idle then .next (s.refuse .resetReentered)
    else .next { s with rst := .s1 }

/-- The next bus transaction of RST: the offsets and values of R132. -/
def rstInstr (s : State) : Option Instr :=
  match s.rst with
  | .s1 => some (.wrRst2C 0x00000000#32)
  | .s2 => some (.wrRst24 0x00000001#32)
  | .s3 => some (.wrRst20 0x80000000#32)
  | .s4 => some (.wrRst2C 0x00000004#32)
  | .s5 => some (.wrRst20 0x00000000#32)
  | .idle => none
  | .halted => none

/-- RST's step index after its transaction; after the fifth it is HALTED and nothing is returned (R132, R135). -/
def RstStep.after : RstStep → RstStep
  | .s1 => .s2
  | .s2 => .s3
  | .s3 => .s4
  | .s4 => .s5
  | .s5 => .halted
  | .idle => .idle
  | .halted => .halted

/-- RST after its transaction. -/
def State.rstAfter (s : State) : State := { s with rst := s.rst.after }

end Sys2Proof.Machine
end

