-- ==== Sys2Proof/Machine/Dispatch.lean ====
section
/-!
DEFINITION. One arm per constructor of Instr, each a direct call of its meaning.
-/
namespace Sys2Proof.Machine

def exec (i : Instr) (s : State) : Host.Outcome State Fault Refusal :=
  match i with
  | .read64 => Sys2Proof.Machine.execRead64 s
  | .arm delta => Sys2Proof.Machine.execArm delta s
  | .disable => Sys2Proof.Machine.execDisable s
  | .reset => Sys2Proof.Machine.execReset s
  | .irqEntry => Sys2Proof.Machine.execIrqEntry s
  | .rdCntLo data => Sys2Proof.Machine.execRdCntLo data s
  | .rdCntHi data => Sys2Proof.Machine.execRdCntHi data s
  | .wrLoad v => Sys2Proof.Machine.execWrLoad v s
  | .wrCtrl v => Sys2Proof.Machine.execWrCtrl v s
  | .wrRst20 v => Sys2Proof.Machine.execWrRst20 v s
  | .wrRst24 v => Sys2Proof.Machine.execWrRst24 v s
  | .wrRst2C v => Sys2Proof.Machine.execWrRst2C v s

end Sys2Proof.Machine
end

