-- ==== Sys2Proof/Machine/Boot.lean ====
section
/-!
DEFINITION. The lifecycle shim's BOOT (70_reset_and_hazards.md R162-R167) in its numbered order, and what the shim and
the OS hold of the block once it is registered (00_scope.md R17, R18).
-/
namespace Sys2Proof.Machine

/-- BOOT starts (R162, steps 1 and 2): refused when mapped (R167); an abort changes nothing (R164, R165). DESIGN CHOICE:
after an abort a later BOOT is admitted, since R162's check reads MAPPED only, although R167 says once per power-on and
R165 says no retry (log entry 32). -/
def bootStart (b : BootInput) (s : State) : Answer :=
  if s.mapped then .next (s.refuse .bootRepeated)
  else match b with
    | .ok h => .next { s with mapped := true, boot := .disable h }
    | .configError => .next s
    | .allocFailure => .next s

/-- BOOT's next step may be taken: step 4 waits for the DISABLE of step 3 to return (R162). -/
def bootEnabled (s : State) : Bool :=
  match s.boot with
  | .idle => false
  | .disable _ => true
  | .registerCe _ => decide (s.event.step = .idle)
  | .registerIrq => true
  | .registerCs => true
  | .expose => true

/-- BOOT's next step (R162, steps 3 to 7; step 7 hands RESET to the platform and changes no state, log entry 26). -/
def bootAdvance (s : State) : Answer :=
  match s.boot with
  | .idle => .refused .moveNotEnabled
  | .disable h => exec .disable { s with boot := .registerCe h, issuer := .host }
  | .registerCe h => .next { s with regCe := true, handler := some h, boot := .registerIrq }
  | .registerIrq => .next { s with irqReq := true, boot := .registerCs }
  | .registerCs => .next { s with regCs := true, boot := .expose }
  | .expose => .next { s with boot := .idle }

/-! ## What the registrations hand over (R17, R18, R162) -/

/-- An operation of the block as a registration names it (R162, steps 4 to 6). -/
inductive Operation where
  | read64
  | arm
  | disable
  | irqEntry
  | reset
  deriving DecidableEq, Repr

/-- What the interrupt line is registered as (R162, step 5). -/
inductive LineClass where
  | timerClass
  | pollTolerant
  deriving DecidableEq, Repr

/-- The TimerRegisterBlock (R17). -/
structure TimerRegisterBlock where
  base : Nat
  irq : Nat
  clockHz : Nat
  deriving DecidableEq, Repr

/-- The CounterSourceState (R18) with the read operation, mask and flag it is registered with (R162, step 6). -/
structure CounterSourceState where
  lowOff : Nat
  highOff : Nat
  name : String
  rating : Nat
  read : Operation
  mask : DWord
  flags : Feature
  deriving DecidableEq, Repr

/-- The EventDeviceState (R18) with the rate and the operation it is registered with (R162, step 4). -/
structure EventDeviceState where
  rating : Nat
  features : Feature
  minDelta : Word
  maxDelta : Word
  rate : Nat
  setNextEvent : Operation
  handler : Option Nat
  deriving DecidableEq, Repr

/-- The registration of the interrupt handler (R162, step 5). -/
structure InterruptRegistration where
  line : Nat
  entry : Operation
  classes : List LineClass
  deriving DecidableEq, Repr

/-- The register block, once constructed (R162, step 2). -/
def State.registerBlock (s : State) : Option TimerRegisterBlock :=
  if s.mapped then some { base := s.params.base, irq := s.params.irq, clockHz := s.params.clockHz } else none

/-- The clock source, once registered (R162, step 6). -/
def State.counterSource (s : State) : Option CounterSourceState :=
  if s.regCs then
    some
      { lowOff := regOffset s.params .cntLo, highOff := regOffset s.params .cntHi, name := s.params.csName,
        rating := s.params.csRating, read := .read64, mask := Config.csMask, flags := .continuous }
  else none

/-- The clock event device, once registered (R162, step 4). -/
def State.eventDevice (s : State) : Option EventDeviceState :=
  if s.regCe then
    some
      { rating := s.params.ceRating, features := .oneshot, minDelta := Config.minDelta, maxDelta := Config.maxDelta,
        rate := s.params.clockHz, setNextEvent := .arm, handler := s.handler }
  else none

/-- The interrupt handler, once registered (R162, step 5): IRQ_ENTRY on the one line. -/
def State.interruptRegistration (s : State) : Option InterruptRegistration :=
  if s.irqReq then some { line := s.params.irq, entry := .irqEntry, classes := [.timerClass, .pollTolerant] } else none

end Sys2Proof.Machine
end

