-- ==== Sys2Proof/Machine/Moves.lean ====
section
/-!
DEFINITION. The moves of the interleaving (00_scope.md R7; 20_memory.md R54, R55): when each is enabled and what it does.
An agent's move runs the bus transaction its sequence names next, through exec, and then advances the sequence.
-/
namespace Sys2Proof.Machine

/-! ## One agent's next transaction -/

/-- The bus transaction an agent performs next (R33, R54). -/
def seqInstr (a : Agent) (s : State) : Option Instr :=
  match a with
  | .reader k => (s.reader? k).bind Reader.nextInstr
  | .event => eventInstr s
  | .irqh => irqhInstr s
  | .rst => rstInstr s
  | .tick => none
  | .host => none
  | .platform => none

/-- The agent's sequence after its transaction. -/
def seqAfter (a : Agent) (s : State) : State :=
  match a with
  | .reader k => s.readerAfter k
  | .event => s.eventAfter
  | .irqh => s.irqhAfter
  | .rst => s.rstAfter
  | .tick => s
  | .host => s
  | .platform => s

/-- An agent performs a transaction (R80) and, when it is admitted, its sequence advances; a refused transaction has no
step (R88). -/
def transact (a : Agent) (i : Instr) (s : State) : Answer :=
  match exec i { s with master := a } with
  | .next t => .next (if busAdmitted i { s with master := a } then seqAfter a t else t)
  | .fault f => .fault f
  | .refused r => .refused r

/-- An agent takes its next bus step. -/
def agentStep (a : Agent) (s : State) : Answer :=
  match seqInstr a s with
  | some i => transact a i s
  | none => .refused .moveNotEnabled

/-! ## Commands, the callback, the system reset -/

/-- HOST issues a command word (R65, R67): decoded, then run with HOST as the issuer. -/
def hostIssue (w : DWord) (s : State) : Answer :=
  match decodeCmd w with
  | .ok i => exec i { s with issuer := .host }
  | .error e => .next (s.refuse e)

/-- IRQH at step CB after the callback's answer: it issues the next operation, or is done (R125, R126). -/
def callbackStep (s : State) : Answer :=
  match s.irqh.pendingOps with
  | [] => .next s.callbackDone
  | w :: ws =>
    match decodeCmd w with
    | .ok i => exec i (s.takeOp ws)
    | .error e => .next ((s.takeOp ws).refuse e)

/-- IRQH's next step (R125). -/
def irqhStep (s : State) : Answer :=
  match s.irqh.step with
  | .idle => .refused .moveNotEnabled
  | .h1 => agentStep .irqh s
  | .h2 => agentStep .irqh s
  | .cb => callbackStep s
  | .ret => .next s.returnFromInterrupt

/-! ## Traffic from outside the sequences -/

/-- A transaction of no operation. Only the block's own sequences perform transactions (R80), so it is refused, whichever
agent's name it bears: its master is HOST's side of the bus, to whom R53 permits nothing (R71; log entry 14). -/
def outsideTransaction (i : Instr) (s : State) : Answer := exec i { s with master := .host }

/-- A bus record from outside the sequences (R71, R88). -/
def presentRecord (w : DWord) (s : State) : Answer :=
  match decodeBus s.params w with
  | .ok i => outsideTransaction i s
  | .error e => .next (s.refuse e)

/-- A raw access from outside the sequences (R88). -/
def presentAccess (d : Dir) (addr bytes : Nat) (v : Word) (s : State) : Answer :=
  match accessInstr s.params d addr bytes v with
  | .ok i => outsideTransaction i s
  | .error e => .next (s.refuse e)

/-! ## The moves -/

/-- Whether a move is an enabled step of its agent (R7, R92, R97, R124, R136). -/
def enabled (m : Move) (s : State) : Bool :=
  match m with
  | .tick => true
  | .host _ => true
  | .boot _ => true
  | .bootStep => bootEnabled s
  | .reader k => (seqInstr (.reader k) s).isSome || s.readerDone k
  | .event => (seqInstr .event s).isSome
  | .irq => s.irqEnabled
  | .irqh =>
    match s.irqh.step with
    | .idle => false
    | .h1 => true
    | .h2 => true
    | .cb => s.irqh.answered && s.irqh.wait.isNone
    | .ret => true
  | .answer _ => decide (s.irqh.step = .cb) && !s.irqh.answered
  | .rst => (seqInstr .rst s).isSome
  | .sysreset => decide (s.rst = .halted)
  | .bus _ _ => true
  | .access _ _ _ _ _ => true

/-- What an enabled move does. -/
def runMove (m : Move) (s : State) : Answer :=
  match m with
  | .tick => .next s.tick
  | .host w => hostIssue w s
  | .boot b => bootStart b s
  | .bootStep => bootAdvance s
  | .reader k => if s.readerDone k then .next (s.retireReader k) else agentStep (.reader k) s
  | .event => agentStep .event s
  | .irq => exec .irqEntry { s with issuer := .irqh }
  | .irqh => irqhStep s
  | .answer ops => .next (s.callback ops)
  | .rst => agentStep .rst s
  | .sysreset => .next s.systemReset
  | .bus _ w => presentRecord w s
  | .access _ d addr bytes v => presentAccess d addr bytes v s

/-- A move that is not enabled has no step: RST at HALTED is stuck for good (R135, R144), any other request makes the
script ill-formed (R76; log entry 22). -/
def disabledMove (m : Move) (s : State) : Answer :=
  if m = .rst ∧ s.rst = .halted then .fault .stuckHalted else .refused .moveNotEnabled

/-- A move, taken if it is enabled. -/
def takeMove (m : Move) (s : State) : Answer :=
  if enabled m s then runMove m s else disabledMove m s

/-! ## The choice of the next move -/

/-- A move the spec's own agents can make: everything but traffic from outside the sequences (R80; log entry 14). -/
def ownMove : Move → Bool
  | .tick => true
  | .host _ => true
  | .boot _ => true
  | .bootStep => true
  | .reader _ => true
  | .event => true
  | .irq => true
  | .irqh => true
  | .answer _ => true
  | .rst => true
  | .sysreset => true
  | .bus _ _ => false
  | .access _ _ _ _ _ => false

/-- The free choice of the next move: any enabled step of any agent (R7); where the value drawn names no enabled step,
the tick, which is always enabled (R92; log entry 1). -/
def freeChoice (s : State) : Move :=
  if ownMove (Config.freeMove s.draws) && enabled (Config.freeMove s.draws) s then Config.freeMove s.draws else .tick

/-- The move to take, and the state with that choice used up. -/
def nextMove (s : State) : Move × State :=
  match s.script with
  | m :: ms => (m, { s with script := ms })
  | [] => (freeChoice s, { s with draws := s.draws + 1 })

/-! ## Placing one instruction -/

/-- The step of EVENT that writes a value to CTRL (R115, R122). -/
def ctrlStep (p : Params) (v : Word) : Option EventStep :=
  if v = p.stop then some .d2
  else if v = p.update then some .d1
  else if v = p.run then some .a4
  else if v = p.run ||| p.update then some .a2
  else none

/-- The step of RST that performs a write, if there is one (R132). -/
def rstStepOf : Instr → Option RstStep
  | .wrRst2C v => if v = 0x00000000#32 then some .s1 else if v = 0x00000004#32 then some .s4 else none
  | .wrRst24 v => if v = 0x00000001#32 then some .s2 else none
  | .wrRst20 v => if v = 0x80000000#32 then some .s3 else if v = 0x00000000#32 then some .s5 else none
  | .read64 => none
  | .arm _ => none
  | .disable => none
  | .reset => none
  | .irqEntry => none
  | .rdCntLo _ => none
  | .rdCntHi _ => none
  | .wrLoad _ => none
  | .wrCtrl _ => none

/-- A mapped block with a sequence at the step that performs a transaction (R33: the step index names the next one), and
that agent's move; none where no sequence performs it (R80). -/
def placeTransaction (i : Instr) (s : State) : Option (State × Move) :=
  match i with
  | .rdCntHi _ => some ({ s with mapped := true, readers := s.readers ++ [Reader.fresh] }, .reader s.readers.length)
  | .rdCntLo _ =>
    some
      ({ s with mapped := true, readers := s.readers ++ [{ Reader.fresh with step := .s2 }] }, .reader s.readers.length)
  | .wrLoad v => some ({ s with mapped := true, event := { s.event with step := .a3, delta := v } }, .event)
  | .wrCtrl v => (ctrlStep s.params v).map (fun st => ({ s with mapped := true }.setEventStep st, .event))
  | .wrRst20 v => (rstStepOf (.wrRst20 v)).map (fun st => ({ s with mapped := true, rst := st }, .rst))
  | .wrRst24 v => (rstStepOf (.wrRst24 v)).map (fun st => ({ s with mapped := true, rst := st }, .rst))
  | .wrRst2C v => (rstStepOf (.wrRst2C v)).map (fun st => ({ s with mapped := true, rst := st }, .rst))
  | .read64 => none
  | .arm _ => none
  | .disable => none
  | .reset => none
  | .irqEntry => none

/-- What makes the machine run an opcode-table word next (log entries 2 and 12): HOST issues a command word; for a bus
record its agent's sequence is put at the step that performs it; a record that no sequence performs is traffic from
outside. -/
def placeWord (s : State) (nbits w : Nat) : State × Move :=
  match tableFormat s.params nbits (tableWord nbits w) with
  | .cmd => (s, .host (tableWord nbits w))
  | .bus =>
    match decodeBus s.params (tableWord nbits w) with
    | .ok i => (placeTransaction i s).getD (s, .bus .host (tableWord nbits w))
    | .error _ => (s, .bus .host (tableWord nbits w))

end Sys2Proof.Machine
end

