-- ==== Sys2Proof/Machine/Step.lean ====
section
/-!
DEFINITION. One step of the machine: the move the script or the free choice names (00_scope.md R7; 20_memory.md R55), in
a machine whose parameters meet R10.
-/
namespace Sys2Proof.Machine

/-- One step (R7, R55). With parameters that break a constraint of R10 the model does not start: every step is refused
BadParameters and nothing else happens (R10, R143). -/
def step (s : State) : Host.Outcome State Fault Refusal :=
  if s.params.wf then takeMove (nextMove s).1 (nextMove s).2 else .next (s.refuse .badParameters)

/-- The state whose very next step runs the opcode-table word: what runs it is put in place, and its move before the script
(log entry 2). -/
def State.withFetchWord (s : State) (nbits w : Nat) : State :=
  { (placeWord s nbits w).1 with script := (placeWord s nbits w).2 :: s.script }

end Sys2Proof.Machine
end

