-- ==== Sys2Proof/Machine/Fairness.lean ====
section
/-!
DEFINITION. Executions and their fairness, for claims about termination (70_reset_and_hazards.md R179; 40_register_interface.md
R92): an infinite interleaving, weak fairness to every agent, and the completion of an operation that has started.
-/
namespace Sys2Proof.Machine

/-- The agent whose step of its own a move is, for R179. Step CB is IRQH's, though HOST draws its answer (R125, R126). HOST
has a step of its own while BOOT is under way; a command or a BOOT is what the outside brings (R76), and nothing obliges it
(log entry 34). SYSRESET is no step that fairness speaks of (R179), and traffic from outside the sequences is no agent's
(R80). -/
def stepOf : Move → Option Agent
  | .tick => some .tick
  | .host _ => none
  | .boot _ => none
  | .bootStep => some .host
  | .reader k => some (.reader k)
  | .event => some .event
  | .irq => some .irqh
  | .irqh => some .irqh
  | .answer _ => some .irqh
  | .rst => some .rst
  | .sysreset => none
  | .bus _ _ => none
  | .access _ _ _ _ _ => none

/-- An agent has an enabled step (R7). -/
def agentEnabled (a : Agent) (s : State) : Prop := ∃ m, stepOf m = some a ∧ enabled m s = true

/-- An infinite execution (R55): at each step one enabled move is taken, from parameters that meet R10. Any move may be
the next (R7): the script and the count of draws, by which `step` chooses, stand for themselves (log entry 1). -/
def Execution (states : Nat → State) (moves : Nat → Move) : Prop :=
  (states 0).params.wf = true ∧
    ∀ n, ∃ script draws,
      takeMove (moves n) { states n with script := script, draws := draws } = .next (states (n + 1))

/-- Weak fairness (R179): an agent whose step stays enabled eventually takes it. -/
def WeaklyFair (states : Nat → State) (moves : Nat → Move) : Prop :=
  ∀ (a : Agent) (n : Nat), (∀ m, n ≤ m → agentEnabled a (states m)) → ∃ m, n ≤ m ∧ stepOf (moves m) = some a

/-- An operation under way at `n` completes: it stays under way up to a step that ends it with its return, the last record
that joins H (R79); or a system reset abandons it (R137). -/
def Completes (states : Nat → State) (moves : Nat → Move) (n : Nat) (underWay : State → Prop) (a : Agent)
    (result : Result → Prop) : Prop :=
  ∃ m, n ≤ m ∧ (∀ j, n ≤ j → j ≤ m → underWay (states j)) ∧
    (moves m = .sysreset ∨
      (¬ underWay (states (m + 1)) ∧
        ∃ es r, result r ∧ (states (m + 1)).hist = (states m).hist ++ es ++ [.ret a r]))

/-! ## Operations under way (R33) -/

/-- READ64 on READER(k) has a bus step before it. -/
def State.read64UnderWay (k : Nat) (s : State) : Prop :=
  ∃ r, s.readers[k]? = some r ∧ (r.step = .s1 ∨ r.step = .s2 ∨ r.step = .s3 ∨ r.step = .s4)

/-- ARM has a bus step before it. -/
def State.armUnderWay (s : State) : Prop :=
  s.event.step = .a1 ∨ s.event.step = .a2 ∨ s.event.step = .a3 ∨ s.event.step = .a4

/-- DISABLE has a bus step before it. -/
def State.disableUnderWay (s : State) : Prop := s.event.step = .d1 ∨ s.event.step = .d2

/-- IRQ_ENTRY has not returned. -/
def State.irqEntryUnderWay (s : State) : Prop := s.irqh.step ≠ .idle

/-- RESET has a bus step before it. -/
def State.resetUnderWay (s : State) : Prop := s.rst ≠ .idle ∧ s.rst ≠ .halted

end Sys2Proof.Machine
end

