-- ==== Sys2Proof/Safety.lean ====
section
/-!
DEFINITION. The terms claims are stated in: the invariant of the machine, end of run and good end (70_reset_and_hazards.md
R180), stuck agents (60_exceptions.md R144), and the moves of one READ64 with ticks between its reads.
-/
namespace Sys2Proof.Machine

/-! ## Agents at rest, end of run -/

/-- A READER with a bus step left (R33). -/
def ReaderStep.inFlight : ReaderStep → Bool
  | .s1 => true
  | .s2 => true
  | .s3 => true
  | .s4 => true
  | .idle => false
  | .done => false

/-- Every READER is idle (R33). -/
def State.readersIdle (s : State) : Bool := s.readers.all (fun r => decide (r.step = .idle))

/-- Every agent but TICK and PLATFORM is idle (R180; a READER at DONE has its last step before it, log entry 21). DESIGN
CHOICE: HOST, which has no step index (R33), is idle when no BOOT is under way, whatever moves the script still holds (log
entry 33). -/
def State.agentsIdle (s : State) : Bool :=
  s.readersIdle && decide (s.event.step = .idle) && decide (s.irqh.step = .idle) && decide (s.rst = .idle) &&
    decide (s.boot = .idle)

/-- A fired interrupt that IRQH could take: a spurious entry does not count (R180). -/
def State.interruptDeliverable (s : State) : Bool := s.irqReq && s.irqLine

/-- The end of a run (R180; 92_eei_decisions.md D32): a faulted state is never a final state. -/
def State.endOfRun (s : State) : Bool := s.agentsIdle && !s.interruptDeliverable && s.faults.isEmpty

/-- A good end of a run (R180): FAULT is empty, as at every end, and REFUSED is false. -/
def State.goodEnd (s : State) : Bool := s.endOfRun && !s.refused

/-- RST is stuck until a system reset (R135, R144). -/
def State.rstStuck (s : State) : Bool := decide (s.rst = .halted)

/-- IRQH waits at step CB for an operation to return (R126, R144). -/
def State.irqhWaiting (s : State) : Bool := decide (s.irqh.step = .cb) && s.irqh.wait.isSome

/-! ## The invariant -/

/-- EVENT runs ARM: its delta matters (R115). -/
def EventStep.arming : EventStep → Bool
  | .a1 => true
  | .a2 => true
  | .a3 => true
  | .a4 => true
  | .idle => false
  | .d1 => false
  | .d2 => false

/-- What IRQH waits for is under way (R125). -/
def State.waitOk (s : State) : Prop :=
  match s.irqh.wait with
  | none => True
  | some .event => s.event.step ≠ .idle ∧ s.event.issuer = .irqh
  | some (.reader k) => ∃ r, s.readers[k]? = some r ∧ r.step.inFlight = true
  | some _ => False

/-- What holds in every state a run reaches. -/
structure State.Inv (s : State) : Prop where
  /-- An unmapped block has no agent under way and nothing registered (R38, R43, R164). -/
  unmappedIdle : s.mapped = false → s.agentsIdle = true ∧ s.regCe = false ∧ s.regCs = false ∧ s.irqReq = false ∧
    s.handler = none
  /-- IRQH.active is true from entry to return (R36). -/
  activeIff : s.irqh.active = true ↔ s.irqh.step ≠ .idle
  /-- The interrupt handler is registered after HANDLER is set (R166). -/
  handlerSet : s.irqReq = true → s.handler.isSome = true
  /-- So it is while BOOT has its steps 5 to 7 before it (R162). -/
  bootHandler : (s.boot = .registerIrq ∨ s.boot = .registerCs ∨ s.boot = .expose) → s.handler.isSome = true
  /-- The refusal mark and the reason go together (R143). -/
  refusedReason : s.refused = s.lastRefusal.isSome
  /-- FAULT is a set (R42). -/
  faultsNodup : s.faults.Nodup
  /-- ARM never runs with delta 0 (R117). -/
  deltaNonzero : s.event.step.arming = true → s.event.delta ≠ 0#32
  /-- At most one reprogramming is in flight: EVENT and IRQH's H1 and H2 exclude each other (R128, R129). -/
  eventPathExclusive : s.event.step ≠ .idle → s.irqh.step ≠ .h1 ∧ s.irqh.step ≠ .h2
  /-- The callback's list and wait exist at step CB only, after the callback has answered (R125). -/
  callbackOnlyAtCb : s.irqh.answered = true → s.irqh.step = .cb
  /-- Before the answer there is nothing to issue and nothing to wait for. -/
  nothingBeforeAnswer : s.irqh.answered = false → s.irqh.pendingOps = [] ∧ s.irqh.wait = none
  /-- What IRQH waits for is under way. -/
  waitOk : s.waitOk

/-! ## The address space (R45, R46) -/

/-- The value held at an absolute address: every word of the block's address space is a register (R45, R46). -/
def State.wordAt (s : State) (addr : Nat) : Option Word :=
  if addr < s.params.base then none else (regAt s.params (addr - s.params.base)).map s.regValue

/-- The absolute address an instruction stores to; none if it stores nothing. -/
def storeAddr (p : Params) (i : Instr) : Option Nat :=
  match busReg i with
  | none => none
  | some r => if regDir r = .write then some (regAddr p r) else none

/-! ## One READ64 with ticks between its reads -/

/-- The four- or three-read sequence of READER(k), with `g1`, `g2`, `g3` ticks between its reads (R97, R103). -/
def readMoves (k g1 g2 g3 : Nat) (four : Bool) : List Move :=
  [.reader k] ++ List.replicate g1 .tick ++ [.reader k] ++ List.replicate g2 .tick ++ [.reader k] ++
    (if four then List.replicate g3 .tick ++ [.reader k] else [])

/-- The counter `n` ticks later (R90, R93). -/
def later (c : DWord) (n : Nat) : DWord := c + BitVec.ofNat 64 n

/-- The high halves read at steps 1 and 3 differ (R99). -/
def highsDiffer (c : DWord) (g1 g2 : Nat) : Bool := decide (hi32 (later c (g1 + g2)) ≠ hi32 c)

end Sys2Proof.Machine
end

