-- ==== Sys2Proof/Certificates/Slice0/Obligations.lean ====
section
/-!
DEFINITION. The statements for the provers, each from a numbered rule of spec/ or from sections of it. A value the spec
leaves open (a drawn reset value, a free policy, the next move) is never given a value here.
-/

open Sys2Proof Sys2Proof.Machine

/-! ## Encoding -/

/-- For every well-formed choice of parameters, decoding an instruction's encoding in its format gives it back
(R64, R65, R69, R70), every operand at every value. A bus record has an encoding where the map's offsets fit its OFF field
(log entry 11). "Every value" takes in a WR_CTRL value outside the four of R72: that such a record decodes, and is refused
when it is run, is the model's choice (log entry 28). -/
def Obligations.DecodeEncodeAgree : Prop :=
  ∀ (p : Params) (i : Instr), p.wf = true → (i.format = .bus → p.recordable = true) →
    decodeWord p i.format (encode p i) = .ok i

/-- A 64-bit value that decodes is the encoding of what it decodes to, in that format: no two values of a format mean
the same instruction (R67, R70). -/
def Obligations.EncodeDecodeAgree : Prop :=
  ∀ (p : Params) (f : Format) (w : DWord) (i : Instr), decodeWord p f w = .ok i → i.format = f ∧ encode p i = w

/-- Words written out in 95_test_vectors.md decode to what they stand for (reference map): the commands stand in §2.1, the
records of RD_CNT_LO, RD_CNT_HI and WR_LOAD in §2.2, that of WR_CTRL in §1 S6, those of RST in §1 S4 (and R139). -/
def Obligations.VectorWordsDecode : Prop :=
  decodeCmd 0x0000000000000001#64 = .ok .read64 ∧
  decodeCmd 0xF000000000000002#64 = .ok (.arm 0xF0000000#32) ∧
  decodeCmd 0x0000000000000003#64 = .ok .disable ∧
  decodeCmd 0x0000000000000004#64 = .ok .reset ∧
  decodeCmd 0x0000000000000005#64 = .ok .irqEntry ∧
  decodeCmd 0x0000000000000100#64 = .error .reservedCommandBits ∧
  decodeBus Params.reference 0x1234567800000000#64 = .ok (.rdCntLo 0x12345678#32) ∧
  decodeBus Params.reference 0x0000000900000004#64 = .ok (.rdCntHi 0x9#32) ∧
  decodeBus Params.reference 0x0000000500010008#64 = .ok (.wrLoad 0x5#32) ∧
  decodeBus Params.reference 0x000000060001000C#64 = .ok (.wrCtrl 0x6#32) ∧
  decodeBus Params.reference 0x8000000000010020#64 = .ok (.wrRst20 0x80000000#32) ∧
  decodeBus Params.reference 0x0000000100010024#64 = .ok (.wrRst24 0x1#32) ∧
  decodeBus Params.reference 0x000000040001002C#64 = .ok (.wrRst2C 0x4#32)

/-- The command decoder of R67, over all words, with the fields of R64 written as numbers; ARM with operand 0 decodes,
and its execution is refused. -/
def Obligations.CommandDecoderTotal : Prop :=
  (∀ w : DWord,
    let opc := w.toNat % 2 ^ 8
    let res := w.toNat / 2 ^ 8 % 2 ^ 24
    let opnd := w.toNat / 2 ^ 32
    decodeCmd w =
      (if res ≠ 0 then .error .reservedCommandBits
      else match opc with
        | 1 => if opnd ≠ 0 then .error .nonZeroOperand else .ok .read64
        | 2 => .ok (.arm (BitVec.ofNat 32 opnd))
        | 3 => if opnd ≠ 0 then .error .nonZeroOperand else .ok .disable
        | 4 => if opnd ≠ 0 then .error .nonZeroOperand else .ok .reset
        | 5 => if opnd ≠ 0 then .error .nonZeroOperand else .ok .irqEntry
        | _ => .error .illegalOpcode)) ∧
  (∀ s : State, s.mapped = true → exec (.arm 0#32) s = .next (s.refuse .armZeroDelta))

/-- Which bus records are refused (R71): a nonzero RES field, an offset that is not in the table for its direction, and a
WR_CTRL value outside the four. The first two name no transaction; the third names one that is refused whichever agent
performs it (log entry 28). Presented to the block, each sets REFUSED, and no record joins H. -/
def Obligations.BadRecordsRefused : Prop :=
  ∀ (s : State) (a : Agent) (w : DWord), s.params.wf = true →
    (w.toNat / 2 ^ 17 % 2 ^ 15 ≠ 0 ∨ w.toNat / 2 ^ 12 % 2 ^ 4 ≠ 0 ∨
      (w.toNat / 2 ^ 16 % 2 = 0 ∧ w.toNat % 2 ^ 12 ≠ s.params.cntLoOff ∧ w.toNat % 2 ^ 12 ≠ s.params.cntLoOff + 4) ∨
      (w.toNat / 2 ^ 16 % 2 = 1 ∧ w.toNat % 2 ^ 12 ∉ [s.params.loadOff, s.params.ctrlOff, 0x20, 0x24, 0x2C]) ∨
      (w.toNat / 2 ^ 16 % 2 = 1 ∧ w.toNat % 2 ^ 12 = s.params.ctrlOff ∧
        w.toNat / 2 ^ 32 ∉ [s.params.stop.toNat, s.params.run.toNat, s.params.update.toNat,
          (s.params.run ||| s.params.update).toNat])) →
    ((∃ e, decodeBus s.params w = .error e) ∨
      ∃ i, decodeBus s.params w = .ok i ∧
        exec i { s with master := a } = .next ({ s with master := a }.refuse .reservedCtrlValue)) ∧
    ∃ t, takeMove (.bus a w) s = .next t ∧ t.refused = true ∧ t.hist = s.hist ∧ t.cnt = s.cnt ∧ t.timer = s.timer ∧
      t.rst20 = s.rst20 ∧ t.rst24 = s.rst24 ∧ t.rst2C = s.rst2C

/-! ## A step runs the instruction -/

/-- A step whose move issues a command runs it through exec: HOST's word, the interrupt controller's IRQ_ENTRY, and the
next operation of a callback answer; a word that does not decode is refused by name. R126 speaks of a list of operations
only: that an answer is a list of command words (log entry 29), and that one which does not decode is refused when its turn
comes and leaves the list, so that IRQH goes on with the rest (the DESIGN CHOICE of log entry 18), are the model's choices. -/
def Obligations.StepRunsIssuedCommand : Prop :=
  (∀ (s : State) (w : DWord) (ms : List Move), s.params.wf = true → s.script = .host w :: ms →
    (∀ i, decodeCmd w = .ok i → step s = exec i { s with script := ms, issuer := .host }) ∧
    (∀ e, decodeCmd w = .error e → step s = .next ({ s with script := ms }.refuse e))) ∧
  (∀ (s : State) (ms : List Move), s.params.wf = true → s.script = .irq :: ms → s.irqEnabled = true →
    step s = exec .irqEntry { s with script := ms, issuer := .irqh }) ∧
  (∀ (s : State) (w : DWord) (ws : List DWord) (ms : List Move), s.params.wf = true → s.script = .irqh :: ms →
    s.irqh.step = .cb → s.irqh.answered = true → s.irqh.wait = none → s.irqh.pendingOps = w :: ws →
    (∀ i, decodeCmd w = .ok i → step s = exec i ({ s with script := ms }.takeOp ws)) ∧
    (∀ e, decodeCmd w = .error e → step s = .next (({ s with script := ms }.takeOp ws).refuse e)))

/-- A bus record from outside the block's own sequences is the transaction it decodes to, and is refused, whichever agent's
name it bears: only the sequences perform transactions (R80), and R53 refuses such traffic (R71). A step whose move
presents one runs it through exec with HOST, whom R53 permits nothing, as master: NotOwner, or ReservedCtrlValue where
R84's own first check refuses it. That a script can hold such traffic at all is log entry 14, that its master is HOST log
entry 2. -/
def Obligations.StepRunsPresentedRecord : Prop :=
  ∀ (s : State) (a : Agent) (w : DWord) (i : Instr) (ms : List Move), s.params.wf = true → s.script = .bus a w :: ms →
    decodeBus s.params w = .ok i →
    step s = exec i { s with script := ms, master := .host } ∧
      (i.wf s.params = true → step s = .next ({ s with script := ms, master := .host }.refuse .notOwner)) ∧
      (i.wf s.params = false → step s = .next ({ s with script := ms, master := .host }.refuse .reservedCtrlValue))

/-- A step of a sequencer runs the transaction its sequence names, through exec, and then advances the sequence
(R33, R54); a refused transaction has no step (R88). -/
def Obligations.StepRunsSequencedTransaction : Prop :=
  ∀ (s t : State) (a : Agent) (m : Move) (i : Instr) (ms : List Move), s.params.wf = true → s.script = m :: ms →
    ((∃ k, m = .reader k ∧ a = .reader k) ∨ (m = .event ∧ a = .event) ∨ (m = .irqh ∧ a = .irqh) ∨ (m = .rst ∧ a = .rst)) →
    seqInstr a s = some i → exec i { s with script := ms, master := a } = .next t →
    step s = .next (if busAdmitted i { s with script := ms, master := a } then seqAfter a t else t)

/-- With an empty script the step takes some enabled step of some agent (R7), the free value's choice. -/
def Obligations.EmptyScriptTakesEnabledMove : Prop :=
  ∀ s : State, s.params.wf = true → s.script = [] →
    ∃ m, ownMove m = true ∧ enabled m s = true ∧ step s = runMove m { s with draws := s.draws + 1 }

/-- Parameters that break a constraint of R10: the model does not start; every step sets REFUSED with the reason
BadParameters and does nothing else (R10, R143). Those that break none start. The masks' constraint, one bit set, is
written with powers of two. The one on P_LATCH_POLICY no choice can break: every value of its type names a policy that meets
R118 (RefFiresOnExactlyTheNthTick, RefDisableObligations, RefGuardObligations; log entry 10). -/
def Obligations.BadParametersDoNotStart : Prop :=
  ∀ (s : State) (broken : Prop),
    (broken ↔
      (s.params.base % 4 ≠ 0 ∨ s.params.cntLoOff % 4 ≠ 0 ∨ s.params.loadOff % 4 ≠ 0 ∨ s.params.ctrlOff % 4 ≠ 0 ∨
        ¬ [s.params.cntLoOff, s.params.cntLoOff + 4, s.params.loadOff, s.params.ctrlOff, 0x20, 0x24, 0x2C].Nodup ∨
        (∃ o ∈ [s.params.cntLoOff, s.params.cntLoOff + 4, s.params.loadOff, s.params.ctrlOff, 0x20, 0x24, 0x2C],
          s.params.regionSize < o + 4) ∨
        (∀ i < 32, s.params.stop.toNat ≠ 2 ^ i) ∨ (∀ i < 32, s.params.run.toNat ≠ 2 ^ i) ∨
        (∀ i < 32, s.params.update.toNat ≠ 2 ^ i) ∨
        s.params.stop = s.params.run ∨ s.params.stop = s.params.update ∨ s.params.run = s.params.update ∨
        s.params.clockHz = 0)) →
    (broken → step s = .next (s.refuse .badParameters)) ∧
    (¬ broken → step s = takeMove (nextMove s).1 (nextMove s).2)

/-! ## READ64 -/

/-- Issuing READ64 at any time creates a new READER at step 1 (R96), which IRQH awaits when the callback issued it (R125);
unmapped, it is refused. Nothing else changes. -/
def Obligations.Read64CreatesReader : Prop :=
  ∀ s : State,
    (s.mapped = true →
      ∃ r : Reader, r.step = .s1 ∧
        exec .read64 s =
          .next
            { s with
              readers := s.readers ++ [r]
              irqh :=
                { s.irqh with wait := if s.issuer = .irqh then some (.reader s.readers.length) else s.irqh.wait } }) ∧
    (s.mapped = false → exec .read64 s = .next (s.refuse .unmappedAccess))

/-- The four bus steps of R97, each one atomic step that is enabled once the one before it was taken (R101): what is read,
which local it goes to, the test at step 3, and the results. From DONE one more step, without a bus transaction or a record,
ends the operation at IDLE (R33; that it is a step of its own is log entry 21); an idle READER has no step. -/
def Obligations.ReaderStepsReadTestRead : Prop :=
  ∀ (s : State) (k : Nat) (r : Reader), s.params.wf = true → s.readers[k]? = some r →
    (s.mapped = true → r.step.inFlight = true →
      ∃ t, takeMove (.reader k) s = .next t ∧
        (r.step = .s1 →
          t.readers[k]? = some { r with hi1 := hi32 s.cnt, step := .s2 } ∧
          t.hist = s.hist ++ [.bus (.reader k) .read (s.params.cntLoOff + 4) (hi32 s.cnt)]) ∧
        (r.step = .s2 →
          t.readers[k]? = some { r with lo := lo32 s.cnt, step := .s3 } ∧
          t.hist = s.hist ++ [.bus (.reader k) .read s.params.cntLoOff (lo32 s.cnt)]) ∧
        (r.step = .s3 → r.hi1 = hi32 s.cnt →
          t.readers[k]? = some { r with hi2 := hi32 s.cnt, hi := r.hi1, step := .done } ∧
          t.hist = s.hist ++
            [.bus (.reader k) .read (s.params.cntLoOff + 4) (hi32 s.cnt), .ret (.reader k) (.value (pair r.hi1 r.lo))]) ∧
        (r.step = .s3 → r.hi1 ≠ hi32 s.cnt →
          t.readers[k]? = some { r with hi2 := hi32 s.cnt, hi := hi32 s.cnt, step := .s4 } ∧
          t.hist = s.hist ++ [.bus (.reader k) .read (s.params.cntLoOff + 4) (hi32 s.cnt)]) ∧
        (r.step = .s4 →
          t.readers[k]? = some { r with lo := lo32 s.cnt, step := .done } ∧
          t.hist = s.hist ++
            [.bus (.reader k) .read s.params.cntLoOff (lo32 s.cnt), .ret (.reader k) (.value (pair r.hi (lo32 s.cnt)))])) ∧
    (r.step = .done → takeMove (.reader k) s = .next { s with readers := s.readers.set k { r with step := .idle } }) ∧
    (r.step = .idle → enabled (.reader k) s = false)

/-- The results of R98 and R99 with any number of ticks between the reads: three reads and `{hi1, lo}` when the highs
agree; four reads and `{hi2, lo'}` when they differ. The reads are exactly those, in order. -/
def Obligations.Read64ResultAcrossTicks : Prop :=
  ∀ (s : State) (k g1 g2 g3 : Nat) (r : Reader) (ms : List Move), s.params.wf = true → s.mapped = true →
    s.readers[k]? = some r → r.step = .s1 →
    ms = readMoves k g1 g2 g3 (highsDiffer s.cnt g1 g2) →
    ∃ t, Sys2Proof.core.run ms.length { s with script := ms } = .next t ∧
      (hi32 (later s.cnt (g1 + g2)) = hi32 s.cnt →
        t.cnt = later s.cnt (g1 + g2) ∧
        t.hist = s.hist ++ [.bus (.reader k) .read (s.params.cntLoOff + 4) (hi32 s.cnt)] ++
          List.replicate g1 .tick ++ [.bus (.reader k) .read s.params.cntLoOff (lo32 (later s.cnt g1))] ++
          List.replicate g2 .tick ++ [.bus (.reader k) .read (s.params.cntLoOff + 4) (hi32 s.cnt)] ++
          [.ret (.reader k) (.value (pair (hi32 s.cnt) (lo32 (later s.cnt g1))))]) ∧
      (hi32 (later s.cnt (g1 + g2)) ≠ hi32 s.cnt →
        t.cnt = later s.cnt (g1 + g2 + g3) ∧
        t.hist = s.hist ++ [.bus (.reader k) .read (s.params.cntLoOff + 4) (hi32 s.cnt)] ++
          List.replicate g1 .tick ++ [.bus (.reader k) .read s.params.cntLoOff (lo32 (later s.cnt g1))] ++
          List.replicate g2 .tick ++ [.bus (.reader k) .read (s.params.cntLoOff + 4) (hi32 (later s.cnt (g1 + g2)))] ++
          List.replicate g3 .tick ++ [.bus (.reader k) .read s.params.cntLoOff (lo32 (later s.cnt (g1 + g2 + g3)))] ++
          [.ret (.reader k) (.value (pair (hi32 (later s.cnt (g1 + g2))) (lo32 (later s.cnt (g1 + g2 + g3)))))])

/-- Exactness (R103) and no torn value (R104): with at most one rollover of the low half between the first and the last
read, READ64 returns the value the counter had at its used low read. Fewer than 2^32 ticks always meet that. -/
def Obligations.Read64IsExact : Prop :=
  ∀ (s : State) (k g1 g2 g3 total : Nat) (r : Reader) (ms : List Move), s.params.wf = true → s.mapped = true →
    s.readers[k]? = some r → r.step = .s1 →
    total = g1 + g2 + (if highsDiffer s.cnt g1 g2 then g3 else 0) →
    ms = readMoves k g1 g2 g3 (highsDiffer s.cnt g1 g2) →
    ((s.cnt.toNat + total) / 2 ^ 32 ≤ s.cnt.toNat / 2 ^ 32 + 1 →
      ∃ t, Sys2Proof.core.run ms.length { s with script := ms } = .next t ∧
        t.hist.getLast? =
          some (.ret (.reader k) (.value (later s.cnt (if highsDiffer s.cnt g1 g2 then total else g1))))) ∧
    (total < 2 ^ 32 → (s.cnt.toNat + total) / 2 ^ 32 ≤ s.cnt.toNat / 2 ^ 32 + 1)

/-- Monotonicity (R105): a READ64 that starts after another has returned does not return less, if each has fewer than
2^32 ticks between its reads and the counter does not wrap at 2^64. -/
def Obligations.Read64IsMonotonic : Prop :=
  ∀ (s : State) (j k g1 g2 g3 g h1 h2 h3 : Nat) (ra rb : Reader) (c : DWord) (ms : List Move), s.params.wf = true →
    s.mapped = true → j ≠ k → s.readers[j]? = some ra → ra.step = .s1 → s.readers[k]? = some rb → rb.step = .s1 →
    g1 + g2 + g3 < 2 ^ 32 → h1 + h2 + h3 < 2 ^ 32 →
    s.cnt.toNat + g1 + g2 + g3 + g + h1 + h2 + h3 < 2 ^ 64 →
    c = later s.cnt (g1 + g2 + (if highsDiffer s.cnt g1 g2 then g3 else 0) + g) →
    ms = readMoves j g1 g2 g3 (highsDiffer s.cnt g1 g2) ++ List.replicate g .tick ++
      readMoves k h1 h2 h3 (highsDiffer c h1 h2) →
    ∃ t a b, Sys2Proof.core.run ms.length { s with script := ms } = .next t ∧
      t.readers[j]? = some a ∧ t.readers[k]? = some b ∧ a.step = .done ∧ b.step = .done ∧
      a.result.toNat ≤ b.result.toNat

/-- The stale case (R106): in the four-read path the result falls short of the counter at the last read by 2^32 for each
rollover between the third and the fourth read; it is not corrected. -/
def Obligations.Read64StaleByRollovers : Prop :=
  ∀ (s : State) (k g3 : Nat) (r : Reader) (ms : List Move), s.params.wf = true → s.mapped = true →
    s.readers[k]? = some r → r.step = .s3 → r.hi1 ≠ hi32 s.cnt → s.cnt.toNat + g3 < 2 ^ 64 →
    ms = [.reader k] ++ List.replicate g3 .tick ++ [.reader k] →
    ∃ t b, Sys2Proof.core.run ms.length { s with script := ms } = .next t ∧ t.readers[k]? = some b ∧ b.step = .done ∧
      t.cnt.toNat = s.cnt.toNat + g3 ∧
      b.result.toNat + 2 ^ 32 * ((s.cnt.toNat + g3) / 2 ^ 32 - s.cnt.toNat / 2 ^ 32) = t.cnt.toNat

/-- READERs are disturbed by nobody (R58, R102): no move but the tick, a system reset and its own step changes the
counter or a READER; and a READER's step changes no register, no other READER and no other sequencer's step. -/
def Obligations.ReadersUndisturbed : Prop :=
  (∀ (s t : State) (m : Move) (k : Nat), takeMove m s = .next t → m ≠ .tick → m ≠ .sysreset → m ≠ .reader k →
    k < s.readers.length → t.cnt = s.cnt ∧ t.readers[k]? = s.readers[k]?) ∧
  (∀ (s t : State) (k : Nat), takeMove (.reader k) s = .next t →
    t.cnt = s.cnt ∧ t.timer = s.timer ∧ t.rst20 = s.rst20 ∧ t.rst24 = s.rst24 ∧ t.rst2C = s.rst2C ∧
      t.event = s.event ∧ t.rst = s.rst ∧ t.irqh.step = s.irqh.step ∧
      (∀ j, j ≠ k → t.readers[j]? = s.readers[j]?))

/-! ## ARM and DISABLE -/

/-- ARM starts on EVENT at A1 with its delta and its issuer (R35, R115) when the block is mapped, delta is not 0 and the
event path is free: nothing else changes. -/
def Obligations.ArmStarts : Prop :=
  ∀ (s : State) (delta : Word), s.mapped = true → delta ≠ 0#32 → s.event.step = .idle → s.irqh.step ≠ .h1 →
    s.irqh.step ≠ .h2 →
    exec (.arm delta) s =
      .next
        { s with
          event := { step := .a1, delta := delta, issuer := s.issuer }
          irqh := { s.irqh with wait := if s.issuer = .irqh then some .event else s.irqh.wait } }

/-- ARM's failing checks in the order of R147: unmapped before zero delta before the race. -/
def Obligations.ArmChecksInOrder : Prop :=
  ∀ (s : State) (delta : Word),
    (s.mapped = false → exec (.arm delta) s = .next (s.ret .event .errUnavailable)) ∧
    (s.mapped = true → exec (.arm 0#32) s = .next (s.refuse .armZeroDelta)) ∧
    (s.mapped = true → delta ≠ 0#32 → s.eventBusy = true →
      exec (.arm delta) s = .next (s.raiseFault .eventPathRace))

/-- ARM's bus steps (R115), whatever the countdown policy makes of them. From any state of a mapped block, whatever the
other agents did before: each step of EVENT makes its one write, records it and goes to the next step, A4 to IDLE with the
return; nothing else changes. And ARM issued by HOST and run without another agent stepping makes exactly the four writes in
that order. -/
def Obligations.ArmWritesExactlyFour : Prop :=
  (∀ s : State, s.mapped = true →
    (s.event.step = .a1 →
      takeMove .event s =
        .next
          { s with
            master := .event
            timer := loadWrite s.params 0xFFFFFFFF#32 s.timer
            hist := s.hist ++ [.bus .event .write s.params.loadOff 0xFFFFFFFF#32]
            event := { s.event with step := .a2 } }) ∧
    (s.event.step = .a2 →
      takeMove .event s =
        .next
          { s with
            master := .event
            timer :=
              ctrlWrite s.params (s.params.run ||| s.params.update)
                { s.timer with ctrl := s.params.run ||| s.params.update }
            hist := s.hist ++ [.bus .event .write s.params.ctrlOff (s.params.run ||| s.params.update)]
            event := { s.event with step := .a3 } }) ∧
    (s.event.step = .a3 →
      takeMove .event s =
        .next
          { s with
            master := .event
            timer := loadWrite s.params s.event.delta s.timer
            hist := s.hist ++ [.bus .event .write s.params.loadOff s.event.delta]
            event := { s.event with step := .a4 } }) ∧
    (s.event.step = .a4 →
      takeMove .event s =
        .next
          { s with
            master := .event
            timer := ctrlWrite s.params s.params.run { s.timer with ctrl := s.params.run }
            hist := s.hist ++ [.bus .event .write s.params.ctrlOff s.params.run, .ret .event .ok]
            event := { s.event with step := .idle }
            irqh := { s.irqh with wait := if s.irqh.wait = some .event then none else s.irqh.wait } })) ∧
  (∀ (s : State) (delta : Word) (ms : List Move), s.params.wf = true → s.mapped = true → delta ≠ 0#32 →
    s.eventBusy = false →
    ms = [.host (encode s.params (.arm delta)), .event, .event, .event, .event] →
    ∃ t, Sys2Proof.core.run ms.length { s with script := ms } = .next t ∧ t.event.step = .idle ∧
      t.timer = timerRun s.params (armOps (masksOf s.params) delta 0 0 0) s.timer ∧
      t.hist = s.hist ++
        [.bus .event .write s.params.loadOff 0xFFFFFFFF#32,
          .bus .event .write s.params.ctrlOff (s.params.run ||| s.params.update),
          .bus .event .write s.params.loadOff delta,
          .bus .event .write s.params.ctrlOff s.params.run,
          .ret .event .ok])

/-- ARM's effect under REF (R119): the registers after each of the four writes, with ticks between A2, A3 and A4 that
only decrement the guard and that A4 discards; the countdown fires on the delta-th tick after A4; PEND is never cleared
by ARM. -/
def Obligations.ArmEffectUnderRef : Prop :=
  ∀ (p : Params) (c : Countdown) (delta : Word) (g2 g3 n : Nat), p.wf = true → p.policy = .ref →
    g2 + g3 < 0xFFFFFFFF →
    timerRun p [.load Config.guardValue] c = { c with load := 0xFFFFFFFF#32 } ∧
    timerRun p [.load Config.guardValue, .ctrl (p.run ||| p.update)] c =
      { load := 0xFFFFFFFF#32, ctrl := p.run ||| p.update, cur := 0xFFFFFFFF#32, en := true, pend := c.pend } ∧
    timerRun p (armToA4 (masksOf p) delta 0 g2 g3) c =
      { load := delta, ctrl := p.run ||| p.update, cur := 0xFFFFFFFF#32 - BitVec.ofNat 32 (g2 + g3), en := true,
        pend := c.pend } ∧
    timerRun p (armToA4 (masksOf p) delta 0 g2 g3 ++ [.ctrl p.run]) c =
      { load := delta, ctrl := p.run, cur := delta, en := true, pend := c.pend } ∧
    (delta ≠ 0#32 →
      (timerRun p (armToA4 (masksOf p) delta 0 g2 g3 ++ [.ctrl p.run] ++ ticks n) c).pend =
        (c.pend || decide (delta.toNat ≤ n)))

/-- Arm correctness (95_test_vectors.md S6; R118 O1) under REF: ARM(N) run by the machine and then n ticks, nothing
pending before: PEND is set exactly when n has reached N, and the interrupt line with it. -/
def Obligations.ArmFiresAfterDeltaTicks : Prop :=
  ∀ (s : State) (delta : Word) (n : Nat) (ms : List Move), s.params.wf = true → s.params.policy = .ref →
    s.mapped = true → delta ≠ 0#32 → s.eventBusy = false → s.timer.pend = false →
    ms = [.host (encode s.params (.arm delta)), .event, .event, .event, .event] ++ List.replicate n .tick →
    ∃ t, Sys2Proof.core.run ms.length { s with script := ms } = .next t ∧
      t.timer.pend = decide (delta.toNat ≤ n) ∧ t.irqLine = decide (delta.toNat ≤ n) ∧
      t.timer.en = decide (n < delta.toNat) ∧ t.timer.cur.toNat = delta.toNat - n

/-- DISABLE starts on EVENT at D1 (R122) when the block is mapped and the event path is free; unmapped it is refused; on
a busy event path it is the fault EventPathRace (R128). -/
def Obligations.DisableStarts : Prop :=
  ∀ s : State,
    (s.mapped = true → s.eventBusy = false →
      exec .disable s =
        .next
          { s with
            event := { step := .d1, delta := s.event.delta, issuer := s.issuer }
            irqh := { s.irqh with wait := if s.issuer = .irqh then some .event else s.irqh.wait } }) ∧
    (s.mapped = false → exec .disable s = .next (s.refuse .unmappedAccess)) ∧
    (s.mapped = true → s.eventBusy = true → exec .disable s = .next (s.raiseFault .eventPathRace))

/-- DISABLE's bus steps (R122). From any state of a mapped block, under any policy: D1 writes UPDATE, D2 writes STOP and
returns UNIT; each records its write, and nothing else changes. And DISABLE run by the machine with any number of ticks
between its two writes (R123), under REF: the timer ends halted with nothing pending and CTRL at STOP. -/
def Obligations.DisableHaltsAndClears : Prop :=
  (∀ s : State, s.mapped = true →
    (s.event.step = .d1 →
      takeMove .event s =
        .next
          { s with
            master := .event
            timer := ctrlWrite s.params s.params.update { s.timer with ctrl := s.params.update }
            hist := s.hist ++ [.bus .event .write s.params.ctrlOff s.params.update]
            event := { s.event with step := .d2 } }) ∧
    (s.event.step = .d2 →
      takeMove .event s =
        .next
          { s with
            master := .event
            timer := ctrlWrite s.params s.params.stop { s.timer with ctrl := s.params.stop }
            hist := s.hist ++ [.bus .event .write s.params.ctrlOff s.params.stop, .ret .event .unit]
            event := { s.event with step := .idle }
            irqh := { s.irqh with wait := if s.irqh.wait = some .event then none else s.irqh.wait } })) ∧
  (∀ (s : State) (g : Nat) (ms : List Move), s.params.wf = true → s.params.policy = .ref → s.mapped = true →
    s.eventBusy = false →
    ms = [.host (encode s.params .disable), .event] ++ List.replicate g .tick ++ [.event] →
    ∃ t, Sys2Proof.core.run ms.length { s with script := ms } = .next t ∧ t.event.step = .idle ∧
      t.timer = { load := s.timer.load, ctrl := s.params.stop, cur := s.timer.load, en := false, pend := false } ∧
      t.hist = s.hist ++ [.bus .event .write s.params.ctrlOff s.params.update] ++ List.replicate g .tick ++
        [.bus .event .write s.params.ctrlOff s.params.stop, .ret .event .unit])

/-- An ARM or DISABLE that starts while EVENT_BUSY makes no bus step; the fault is recorded in FAULT (R128). -/
def Obligations.EventPathRaceRecorded : Prop :=
  ∀ (s : State) (i : Instr), s.mapped = true → (i = .disable ∨ ∃ d, d ≠ 0#32 ∧ i = .arm d) →
    (s.event.step ≠ .idle ∨ s.irqh.step = .h1 ∨ s.irqh.step = .h2) →
    ∃ t, exec i s = .next t ∧ FaultReason.eventPathRace ∈ t.faults ∧ (∀ f ∈ s.faults, f ∈ t.faults) ∧
      { t with faults := s.faults } = s

/-! ## The countdown policy -/

/-- REF meets O1 (R118), and so does every policy that the parameters can name (the free ones by their type, log entry
10). -/
def Obligations.RefFiresOnExactlyTheNthTick : Prop :=
  ∀ p : Params, p.wf = true → (refPolicy (masksOf p)).MeetsO1 (masksOf p) ∧ (latchPolicy p).MeetsO1 (masksOf p)

/-- REF meets O2 and O3 (R118), and so does every policy that the parameters can name (log entry 10). -/
def Obligations.RefDisableObligations : Prop :=
  ∀ p : Params, p.wf = true →
    (refPolicy (masksOf p)).MeetsO2 (masksOf p) ∧ (refPolicy (masksOf p)).MeetsO3 (masksOf p) ∧
      (latchPolicy p).MeetsO2 (masksOf p) ∧ (latchPolicy p).MeetsO3 (masksOf p)

/-- REF meets O4 and O5 (R118), and so does every policy that the parameters can name (log entry 10). Of REF more holds
when no tick falls between A1 and A2: an ARM(a) in a row before ARM(b) leaves no trace at all, whatever was pending; and
from a state with nothing pending the window under the guard sets nothing, for every delta. -/
def Obligations.RefGuardObligations : Prop :=
  ∀ p : Params, p.wf = true →
    ((refPolicy (masksOf p)).MeetsO4 (masksOf p) ∧ (refPolicy (masksOf p)).MeetsO5 (masksOf p)) ∧
    ((latchPolicy p).MeetsO4 (masksOf p) ∧ (latchPolicy p).MeetsO5 (masksOf p)) ∧
    (p.policy = .ref → ∀ (c : Countdown) (a b : Word) (g2 g3 : Nat), a ≠ 0#32 → b ≠ 0#32 → g2 + g3 < 0xFFFFFFFF →
      timerRun p (armOps (masksOf p) a 0 0 0 ++ armOps (masksOf p) b 0 g2 g3) c =
        timerRun p (armOps (masksOf p) b 0 0 0) c) ∧
    (p.policy = .ref → ∀ (c : Countdown) (delta : Word) (g2 g3 : Nat), c.pend = false → g2 + g3 < 0xFFFFFFFF →
      (timerRun p (armToA4 (masksOf p) delta 0 g2 g3) c).pend = false)

/-- One shot (R113): after a fire nothing but a RUN write starts counting again, and PEND stays 1 until a STOP write. -/
def Obligations.CountdownIsOneShot : Prop :=
  ∀ (p : Params) (c : Countdown) (ops : List TimerOp), p.wf = true → p.policy = .ref → c.en = true → c.cur.toNat ≤ 1 →
    ops.all (TimerOp.notRun (masksOf p)) = true →
    (countdownTick p c).en = false ∧ (countdownTick p c).cur = 0#32 ∧ (countdownTick p c).pend = true ∧
      (timerRun p ops (countdownTick p c)).en = false ∧
      (.ctrl p.stop ∉ ops → (timerRun p ops (countdownTick p c)).pend = true) ∧
      (timerRun p (ticks ops.length) (countdownTick p c) = countdownTick p c)

/-! ## IRQ_ENTRY -/

/-- When IRQ_ENTRY is an enabled step of IRQH, that IRQ_REQ implies MAPPED, and the refusal without a handler (R124). -/
def Obligations.IrqEntryEnabledExactly : Prop :=
  ∀ s : State,
    (enabled .irq s = true ↔
      (s.irqReq = true ∧ s.irqh.active = false ∧ s.event.step = .idle ∧
        (s.timer.pend = true ∨ s.params.spuriousIrq = true))) ∧
    (s.Inv → s.irqReq = true → s.mapped = true) ∧
    (s.irqh.step = .idle → s.mapped = true → enabled .irq s = true → s.handler = none →
      takeMove .irq s = .next ({ s with issuer := .irqh }.refuse .irqWithoutHandler))

/-- Taking the interrupt (R125, R148): enabled, mapped and with a handler, IRQ_ENTRY makes IRQH active at H1 and changes
no register; without a handler it is refused (R124). -/
def Obligations.IrqEntryTakesInterrupt : Prop :=
  ∀ s : State, s.issuer = .irqh → s.irqh.step ≠ .cb → s.irqEnabled = true → s.mapped = true →
    (s.handler.isSome = true →
      exec .irqEntry s =
        .next { s with irqh := { step := .h1, active := true, pendingOps := [], answered := false, wait := none } }) ∧
    (s.handler = none → exec .irqEntry s = .next (s.refuse .irqWithoutHandler))

/-- IRQ_ENTRY is never issuable: from HOST, and as the word 5 issued by HOST, it is refused CommandNotIssuable; IRQ_ENTRY
and RESET in a callback answer are refused CallbackOpNotAllowed (R68). -/
def Obligations.IrqEntryNotIssuable : Prop :=
  (∀ s : State, s.issuer = .host → exec .irqEntry s = .next (s.refuse .commandNotIssuable)) ∧
  (∀ s : State, takeMove (.host 0x0000000000000005#64) s =
    .next ({ s with issuer := .host }.refuse .commandNotIssuable)) ∧
  (∀ s : State, s.issuer = .irqh → s.irqh.step = .cb →
    exec .irqEntry s = .next (s.refuse .callbackOpNotAllowed) ∧ exec .reset s = .next (s.refuse .callbackOpNotAllowed))

/-- IRQH's own steps (R125). From any state of a mapped block, under any policy: H1 writes UPDATE, H2 writes STOP, each
records its write and goes to the next step; RET makes IRQH inactive and idle and returns HANDLED; nothing else changes.
And the whole handler with an empty callback answer and no other agent stepping (R130), under REF: the two writes of
DISABLE, the callback, HANDLED; the timer ends disabled and IRQH idle. -/
def Obligations.HandlerDisablesAndReturns : Prop :=
  (∀ s : State,
    (s.mapped = true → s.irqh.step = .h1 →
      takeMove .irqh s =
        .next
          { s with
            master := .irqh
            timer := ctrlWrite s.params s.params.update { s.timer with ctrl := s.params.update }
            hist := s.hist ++ [.bus .irqh .write s.params.ctrlOff s.params.update]
            irqh := { s.irqh with step := .h2 } }) ∧
    (s.mapped = true → s.irqh.step = .h2 →
      takeMove .irqh s =
        .next
          { s with
            master := .irqh
            timer := ctrlWrite s.params s.params.stop { s.timer with ctrl := s.params.stop }
            hist := s.hist ++ [.bus .irqh .write s.params.ctrlOff s.params.stop]
            irqh := { s.irqh with step := .cb } }) ∧
    (s.irqh.step = .ret →
      takeMove .irqh s =
        .next
          { s with
            irqh := { step := .idle, active := false, pendingOps := [], answered := false, wait := none }
            hist := s.hist ++ [.ret .irqh .handled] })) ∧
  (∀ (s : State) (ms : List Move), s.params.wf = true → s.params.policy = .ref → s.mapped = true →
    s.irqEnabled = true → s.irqh.step = .idle → s.handler.isSome = true →
    ms = [.irq, .irqh, .irqh, .answer [], .irqh, .irqh] →
    ∃ t, Sys2Proof.core.run ms.length { s with script := ms } = .next t ∧
      t.hist = s.hist ++
        [.bus .irqh .write s.params.ctrlOff s.params.update, .bus .irqh .write s.params.ctrlOff s.params.stop,
          .callback, .ret .irqh .handled] ∧
      t.timer = { load := s.timer.load, ctrl := s.params.stop, cur := s.timer.load, en := false, pend := false } ∧
      t.irqh = { step := .idle, active := false, pendingOps := [], answered := false, wait := none } ∧
      t.cnt = s.cnt ∧ t.rst20 = s.rst20 ∧ t.rst24 = s.rst24 ∧ t.rst2C = s.rst2C ∧ t.readers = s.readers)

/-- The handler does not nest and is not left early (R36, R151): while IRQH is active no entry is enabled, and only the
step RET or a system reset makes it inactive. -/
def Obligations.HandlerDoesNotNest : Prop :=
  ∀ (s t : State) (m : Move), s.Inv → s.irqh.active = true → takeMove m s = .next t →
    m ≠ .irq ∧ (t.irqh.active = true ∨ (m = .irqh ∧ s.irqh.step = .ret) ∨ m = .sysreset)

/-! ## RESET -/

/-- RESET issued by HOST: started at step 1 when mapped and idle (R132); unmapped it returns UNIT at once with no bus
transaction (R133); re-entered it is refused (R138). -/
def Obligations.ResetStarts : Prop :=
  ∀ s : State, s.issuer = .host →
    (s.mapped = true → s.rst = .idle → exec .reset s = .next { s with rst := .s1 }) ∧
    (s.mapped = false → exec .reset s = .next (s.ret .rst .unit)) ∧
    (s.mapped = true → s.rst ≠ .idle → exec .reset s = .next (s.refuse .resetReentered))

/-- RESET's bus steps (R132, R134). From any state of a mapped block, whatever the other agents did before: each step of
RST makes its one write, records it and goes to the next step, the fifth to HALTED with nothing returned; it reads nothing
and changes nothing else. And a mapped RESET run without another agent stepping makes exactly the five writes, in that
order, and no other. -/
def Obligations.ResetWritesExactlyFive : Prop :=
  (∀ s : State, s.mapped = true →
    (s.rst = .s1 →
      takeMove .rst s =
        .next
          { s with
            master := .rst, rst2C := 0x00000000#32, hist := s.hist ++ [.bus .rst .write 0x2C 0x00000000#32], rst := .s2 }) ∧
    (s.rst = .s2 →
      takeMove .rst s =
        .next
          { s with
            master := .rst, rst24 := 0x00000001#32, hist := s.hist ++ [.bus .rst .write 0x24 0x00000001#32], rst := .s3 }) ∧
    (s.rst = .s3 →
      takeMove .rst s =
        .next
          { s with
            master := .rst, rst20 := 0x80000000#32, hist := s.hist ++ [.bus .rst .write 0x20 0x80000000#32], rst := .s4 }) ∧
    (s.rst = .s4 →
      takeMove .rst s =
        .next
          { s with
            master := .rst, rst2C := 0x00000004#32, hist := s.hist ++ [.bus .rst .write 0x2C 0x00000004#32], rst := .s5 }) ∧
    (s.rst = .s5 →
      takeMove .rst s =
        .next
          { s with
            master := .rst, rst20 := 0x00000000#32, hist := s.hist ++ [.bus .rst .write 0x20 0x00000000#32], rst := .halted })) ∧
  (∀ (s : State) (ms : List Move), s.params.wf = true → s.mapped = true → s.rst = .idle →
    ms = [.host (encode s.params .reset), .rst, .rst, .rst, .rst, .rst] →
    ∃ t, Sys2Proof.core.run ms.length { s with script := ms } = .next t ∧ t.rst = .halted ∧
      t.hist = s.hist ++
        [.bus .rst .write 0x2C 0x00000000#32, .bus .rst .write 0x24 0x00000001#32, .bus .rst .write 0x20 0x80000000#32,
          .bus .rst .write 0x2C 0x00000004#32, .bus .rst .write 0x20 0x00000000#32] ∧
      t.rst20 = 0#32 ∧ t.rst24 = 1#32 ∧ t.rst2C = 4#32 ∧ t.cnt = s.cnt ∧ t.timer = s.timer ∧ t.readers = s.readers ∧
      t.event = s.event ∧ t.irqh = s.irqh)

/-- HALTED is a stop for good (R135): the fifth write ends there with no return, RST then has no further step, and only
the system reset leaves it. -/
def Obligations.HaltedLeftOnlyBySystemReset : Prop :=
  ∀ s : State,
    (s.rst = .s5 → s.mapped = true →
      ∃ t, takeMove .rst s = .next t ∧ t.rst = .halted ∧ t.hist = s.hist ++ [.bus .rst .write 0x20 0x00000000#32]) ∧
    (s.rst = .halted →
      (∀ t : State, takeMove .rst s ≠ .next t) ∧
      (∀ (m : Move) (t : State), takeMove m s = .next t → t.rst = .halted ∨ m = .sysreset))

/-- SYSRESET (R136, R137): enabled only while RST is HALTED; every sequencer abandoned, nothing mapped or registered,
the history, FAULT and REFUSED kept. The drawn registers are left open. -/
def Obligations.SystemResetEffect : Prop :=
  ∀ s : State,
    (enabled .sysreset s = true ↔ s.rst = .halted) ∧
    (s.rst = .halted →
      ∃ t, takeMove .sysreset s = .next t ∧ t.agentsIdle = true ∧ t.irqh.active = false ∧ t.mapped = false ∧
        t.regCe = false ∧ t.regCs = false ∧ t.irqReq = false ∧ t.handler = none ∧ t.hist = s.hist ++ [.sysreset] ∧
        t.faults = s.faults ∧ t.refused = s.refused ∧ t.params = s.params)

/-! ## The tick -/

/-- TICK is always enabled (R92) and is R90's pseudocode: the counter, the countdown policy, one history entry. -/
def Obligations.TickAdvancesBoth : Prop :=
  ∀ s : State,
    takeMove .tick s =
      .next { s with cnt := s.cnt + 1#64, timer := countdownTick s.params s.timer, hist := s.hist ++ [.tick] }

/-- The carry (R91, R93): the low half wraps and the high half increments in the same tick, and at no other; at the top
both wrap to 0. -/
def Obligations.CarryInOneTick : Prop :=
  ∀ (s t : State), takeMove .tick s = .next t →
    ((lo32 s.cnt).toNat = 2 ^ 32 - 1 →
      (lo32 t.cnt).toNat = 0 ∧ (hi32 t.cnt).toNat = ((hi32 s.cnt).toNat + 1) % 2 ^ 32) ∧
    ((lo32 s.cnt).toNat ≠ 2 ^ 32 - 1 →
      (lo32 t.cnt).toNat = (lo32 s.cnt).toNat + 1 ∧ hi32 t.cnt = hi32 s.cnt) ∧
    t.cnt.toNat = (s.cnt.toNat + 1) % 2 ^ 64

/-- REF's tick (R112) with CUR as a number, and when a running countdown fires: on the CUR-th tick, and on the first if
CUR is 0. -/
def Obligations.RefTickCountsDown : Prop :=
  ∀ (p : Params) (c : Countdown) (n : Nat), p.policy = .ref →
    (c.en = false → countdownTick p c = c) ∧
    (c.en = true → c.cur.toNat ≤ 1 → countdownTick p c = { c with cur := 0#32, en := false, pend := true }) ∧
    (c.en = true → 1 < c.cur.toNat →
      (countdownTick p c).cur.toNat = c.cur.toNat - 1 ∧ (countdownTick p c).en = true ∧
        (countdownTick p c).pend = c.pend ∧ (countdownTick p c).load = c.load ∧ (countdownTick p c).ctrl = c.ctrl) ∧
    (c.en = true → (timerRun p (ticks n) c).pend = (c.pend || decide (max 1 c.cur.toNat ≤ n)))

/-! ## Bus transactions -/

/-- RD_CNT_LO and RD_CNT_HI (R81, R82): their records' fields, where the offset fits OFF (log entry 11); by a READER
of a mapped block the half of CNT is returned and recorded, and nothing else changes; by another agent or unmapped
they are refused. -/
def Obligations.CounterHalvesRead : Prop :=
  ∀ (s : State) (data : Word), s.params.wf = true →
    (s.params.recordable = true →
      (encode s.params (.rdCntLo data)).toNat = data.toNat * 2 ^ 32 + s.params.cntLoOff) ∧
    (s.params.recordable = true →
      (encode s.params (.rdCntHi data)).toNat = data.toNat * 2 ^ 32 + (s.params.cntLoOff + 4)) ∧
    (∀ k, s.mapped = true → s.master = .reader k →
      exec (.rdCntLo data) s =
        .next
          { s with
            hist := s.hist ++ [.bus (.reader k) .read s.params.cntLoOff (BitVec.ofNat 32 s.cnt.toNat)]
            busData := BitVec.ofNat 32 s.cnt.toNat } ∧
      exec (.rdCntHi data) s =
        .next
          { s with
            hist := s.hist ++
              [.bus (.reader k) .read (s.params.cntLoOff + 4) (BitVec.ofNat 32 (s.cnt.toNat / 2 ^ 32))]
            busData := BitVec.ofNat 32 (s.cnt.toNat / 2 ^ 32) }) ∧
    ((∀ k, s.master ≠ .reader k) ∨ s.mapped = false →
      (∃ e, exec (.rdCntLo data) s = .next (s.refuse e)) ∧ (∃ e, exec (.rdCntHi data) s = .next (s.refuse e)))

/-- WR_LOAD (R83): its record's fields, where the offset fits OFF (log entry 11); by EVENT or IRQH of a mapped block
every value is recorded and given to the policy's load_write, which under REF stores it and does not touch the running
countdown (R110); by another agent or unmapped it is refused. -/
def Obligations.LoadWritten : Prop :=
  ∀ (s : State) (v : Word), s.params.wf = true →
    (s.params.recordable = true →
      (encode s.params (.wrLoad v)).toNat = v.toNat * 2 ^ 32 + 2 ^ 16 + s.params.loadOff) ∧
    (s.mapped = true → (s.master = .event ∨ s.master = .irqh) →
      exec (.wrLoad v) s =
        .next
          { s with
            hist := s.hist ++ [.bus s.master .write s.params.loadOff v]
            timer := loadWrite s.params v s.timer }) ∧
    (s.params.policy = .ref → loadWrite s.params v s.timer = { s.timer with load := v }) ∧
    ((s.master ≠ .event ∧ s.master ≠ .irqh) ∨ s.mapped = false → ∃ e, exec (.wrLoad v) s = .next (s.refuse e))

/-- WR_CTRL (R84): its record's fields, where the offset fits OFF (log entry 11); one of the four values by EVENT or
IRQH of a mapped block is recorded, stored, and then the policy's control action is performed, under REF R111: STOP
halts and clears, any other value latches LOAD and counts exactly when RUN is in it. Any other value, agent or an
unmapped block is refused. -/
def Obligations.CtrlWritten : Prop :=
  ∀ (s : State) (v : Word), s.params.wf = true →
    (s.params.recordable = true →
      (encode s.params (.wrCtrl v)).toNat = v.toNat * 2 ^ 32 + 2 ^ 16 + s.params.ctrlOff) ∧
    ((v = s.params.stop ∨ v = s.params.run ∨ v = s.params.update ∨ v = s.params.run ||| s.params.update) →
      (s.mapped = true → (s.master = .event ∨ s.master = .irqh) →
        exec (.wrCtrl v) s =
          .next
            { s with
              hist := s.hist ++ [.bus s.master .write s.params.ctrlOff v]
              timer := ctrlWrite s.params v { s.timer with ctrl := v } }) ∧
      (s.params.policy = .ref →
        ctrlWrite s.params v { s.timer with ctrl := v } =
          (if v = s.params.stop then { s.timer with ctrl := v, en := false, pend := false }
          else { s.timer with ctrl := v, cur := s.timer.load, en := decide (v ≠ s.params.update) })) ∧
      ((s.master ≠ .event ∧ s.master ≠ .irqh) ∨ s.mapped = false → ∃ e, exec (.wrCtrl v) s = .next (s.refuse e))) ∧
    (v ≠ s.params.stop → v ≠ s.params.run → v ≠ s.params.update → v ≠ s.params.run ||| s.params.update →
      exec (.wrCtrl v) s = .next (s.refuse .reservedCtrlValue))

/-- WR_RST_20, WR_RST_24 and WR_RST_2C (R85, R86, R87): their records' fields; by RST of a mapped block recorded and
stored, with no effect on the timer state; by another agent or unmapped refused. -/
def Obligations.ResetRegistersWritten : Prop :=
  ∀ (s : State) (v : Word), s.params.wf = true →
    (encode s.params (.wrRst20 v)).toNat = v.toNat * 2 ^ 32 + 0x10020 ∧
    (encode s.params (.wrRst24 v)).toNat = v.toNat * 2 ^ 32 + 0x10024 ∧
    (encode s.params (.wrRst2C v)).toNat = v.toNat * 2 ^ 32 + 0x1002C ∧
    (s.mapped = true → s.master = .rst →
      exec (.wrRst20 v) s = .next { s with hist := s.hist ++ [.bus .rst .write 0x20 v], rst20 := v } ∧
      exec (.wrRst24 v) s = .next { s with hist := s.hist ++ [.bus .rst .write 0x24 v], rst24 := v } ∧
      exec (.wrRst2C v) s = .next { s with hist := s.hist ++ [.bus .rst .write 0x2C v], rst2C := v }) ∧
    (s.master ≠ .rst ∨ s.mapped = false →
      (∃ e, exec (.wrRst20 v) s = .next (s.refuse e)) ∧ (∃ e, exec (.wrRst24 v) s = .next (s.refuse e)) ∧
        (∃ e, exec (.wrRst2C v) s = .next (s.refuse e)))

/-- Who performs transactions. Only the block's own sequences do (R80): whatever move is taken, each bus record that joins H
is the transaction that its agent's sequence names next, on a register that R53 permits that agent, in the register's
direction and at its offset, and the move is that agent's own. A transaction by an agent that R53's table does not permit is
refused NotOwner; a permitted one of an unmapped block UnmappedAccess (R81-R87); neither is recorded in H nor touches a
register. The NotOwner clause has no MAPPED premise: that an unpermitted transaction of an unmapped block is NotOwner and
not UnmappedAccess is the model's order of the two checks (log entry 15, DESIGN CHOICE). -/
def Obligations.OnlyOwnersTransact : Prop :=
  (∀ (s t : State) (m : Move), takeMove m s = .next t →
    ∃ es, t.hist = s.hist ++ es ∧
      ∀ (a : Agent) (d : Dir) (off : Nat) (v : Word), Event.bus a d off v ∈ es →
        ((∃ k, m = .reader k ∧ a = .reader k) ∨ (m = .event ∧ a = .event) ∨ (m = .irqh ∧ a = .irqh) ∨
          (m = .rst ∧ a = .rst)) ∧
        ∃ i r, seqInstr a s = some i ∧ busReg i = some r ∧ permitted r a = true ∧ d = regDir r ∧
          off = regOffset s.params r) ∧
  (∀ (s : State) (i : Instr) (r : Reg), busReg i = some r → i.wf s.params = true →
    ((¬ ((∃ k, s.master = .reader k) ∧ (r = .cntLo ∨ r = .cntHi) ∨
          (s.master = .event ∨ s.master = .irqh) ∧ (r = .load ∨ r = .ctrl) ∨
          s.master = .rst ∧ (r = .rst20 ∨ r = .rst24 ∨ r = .rst2C)) →
        exec i s = .next (s.refuse .notOwner)) ∧
      (permitted r s.master = true → s.mapped = false → exec i s = .next (s.refuse .unmappedAccess))))

/-- Step CB (R125, R126): the callback answers with any finite list and is recorded; IRQH issues its operations in order,
one at a time, with itself as the issuer, and takes no step while one of them has not returned; the return of EVENT or of
the READER ends that wait; with the list used up IRQH goes to RET. R125 writes CB as one step that waits: that the answer,
the issue of each operation and the step from CB to RET, which leaves no record, are steps of their own, and that the
return ends the wait in its own step, is the model's reading (log entry 18); that the operations are command words is log
entry 29. -/
def Obligations.CallbackIssuesAndWaits : Prop :=
  ∀ (s : State) (ws : List DWord), s.irqh.step = .cb →
    (s.irqh.answered = false →
      takeMove (.answer ws) s =
        .next { s with irqh := { s.irqh with pendingOps := ws, answered := true }, hist := s.hist ++ [.callback] }) ∧
    (s.irqh.answered = true → s.irqh.wait ≠ none → enabled .irqh s = false) ∧
    (s.irqh.answered = true → s.irqh.wait = none →
      (s.irqh.pendingOps = [] → ∃ t, takeMove .irqh s = .next t ∧ t.irqh.step = .ret ∧ t.hist = s.hist) ∧
      (s.irqh.pendingOps = encode s.params .read64 :: ws → s.mapped = true →
        ∃ t, takeMove .irqh s = .next t ∧ t.readers.length = s.readers.length + 1 ∧ t.irqh.pendingOps = ws ∧
          t.irqh.wait = some (.reader s.readers.length)) ∧
      (∀ d, s.irqh.pendingOps = encode s.params (.arm d) :: ws → s.mapped = true → d ≠ 0#32 → s.event.step = .idle →
        ∃ t, takeMove .irqh s = .next t ∧ t.event = { step := .a1, delta := d, issuer := .irqh } ∧
          t.irqh.pendingOps = ws ∧ t.irqh.wait = some .event) ∧
      (s.irqh.pendingOps = encode s.params .disable :: ws → s.mapped = true → s.event.step = .idle →
        ∃ t, takeMove .irqh s = .next t ∧ t.event.step = .d1 ∧ t.event.issuer = .irqh ∧ t.irqh.pendingOps = ws ∧
          t.irqh.wait = some .event)) ∧
    (∀ t, s.irqh.wait = some .event → takeMove .event s = .next t →
      (t.event.step = .idle ↔ t.irqh.wait = none)) ∧
    (∀ k t, s.irqh.wait = some (.reader k) → takeMove (.reader k) s = .next t →
      ((∃ r, t.readers[k]? = some r ∧ r.step = .done) ↔ t.irqh.wait = none))

/-- Raw accesses: any width but 32 bits, a misaligned address, an address outside the seven registers, or the wrong
direction is refused and has no step (R47, R48, R49, R88). That the reason recorded is then one of those four, whichever
agent's name the access bears and whether or not the block is mapped, and never NotOwner or UnmappedAccess, is the model's
order of the checks (log entry 15, DESIGN CHOICE); that a script can hold such an access at all is log entry 14. -/
def Obligations.BadAccessesRefused : Prop :=
  ∀ (s : State) (a : Agent) (d : Dir) (addr bytes : Nat) (v : Word), s.params.wf = true →
    (bytes ≠ 4 ∨ addr % 4 ≠ 0 ∨ addr < s.params.base ∨
      (∀ r : Reg, addr ≠ regAddr s.params r) ∨ (∃ r : Reg, addr = regAddr s.params r ∧ d ≠ regDir r)) →
    ∃ e, e ∈ [Reason.badWidth, .misaligned, .badOffset, .badDirection] ∧
      takeMove (.access a d addr bytes v) s = .next (s.refuse e)

/-- An aligned 32-bit access at a register's address in its direction names the transaction on that register (R46, R94). From
outside the block's own sequences that transaction is refused, whichever agent's name it bears (R80): NotOwner, or
ReservedCtrlValue where R84's own first check refuses it. That a script can hold such traffic at all is log entry 14. -/
def Obligations.GoodAccessNamesTransactionButRefused : Prop :=
  ∀ (s : State) (a : Agent) (r : Reg) (v : Word), s.params.wf = true →
    accessInstr s.params (regDir r) (regAddr s.params r) 4 v = .ok (regInstr v r) ∧
    takeMove (.access a (regDir r) (regAddr s.params r) 4 v) s = exec (regInstr v r) { s with master := .host } ∧
    takeMove (.access a (regDir r) (regAddr s.params r) 4 v) s =
      .next ({ s with master := .host }.refuse
        (if r = Reg.ctrl ∧ v ∉ [s.params.stop, s.params.run, s.params.update, s.params.run ||| s.params.update] then
          .reservedCtrlValue
        else .notOwner))

/-- The frame of the bus transactions, by address (R21, R52): one that is admitted or refused changes the word at no
address but the one it stores to, and a read changes none; CNT, the sequencers, the driver boundary and FAULT stay.
Only WR_CTRL changes CUR, EN or PEND (R83-R87). Under a policy other than REF, WR_LOAD and WR_CTRL may do what the policy
does to the countdown's own registers (R109), and to nothing else. -/
def Obligations.TransactionFrame : Prop :=
  ∀ (s t : State) (i : Instr), s.params.wf = true → i.format = .bus → exec i s = .next t →
    (∀ addr, storeAddr s.params i ≠ some addr →
      (s.params.policy = .ref ∨ (addr ≠ regAddr s.params .load ∧ addr ≠ regAddr s.params .ctrl) ∨
        (∀ v, i ≠ .wrLoad v ∧ i ≠ .wrCtrl v)) →
      t.wordAt addr = s.wordAt addr) ∧
    t.cnt = s.cnt ∧ t.readers = s.readers ∧ t.event = s.event ∧ t.irqh = s.irqh ∧ t.rst = s.rst ∧ t.boot = s.boot ∧
    t.mapped = s.mapped ∧ t.handler = s.handler ∧ t.regCe = s.regCe ∧ t.regCs = s.regCs ∧ t.irqReq = s.irqReq ∧
    t.faults = s.faults ∧ t.params = s.params ∧ t.script = s.script ∧
    ((∀ v, i ≠ .wrCtrl v) → (s.params.policy = .ref ∨ ∀ v, i ≠ .wrLoad v) →
      t.timer.cur = s.timer.cur ∧ t.timer.en = s.timer.en ∧ t.timer.pend = s.timer.pend)

/-- The frame of the five operations as they are issued: no register, no word of the address space, no driver-boundary
state changes, and the history grows by a return at most (R13, R80: only bus steps touch registers). -/
def Obligations.CommandFrame : Prop :=
  ∀ (s t : State) (i : Instr), i.format = .cmd → exec i s = .next t →
    (∀ addr, t.wordAt addr = s.wordAt addr) ∧ t.cnt = s.cnt ∧ t.timer = s.timer ∧ t.rst20 = s.rst20 ∧
    t.rst24 = s.rst24 ∧ t.rst2C = s.rst2C ∧ t.mapped = s.mapped ∧ t.handler = s.handler ∧ t.regCe = s.regCe ∧
    t.regCs = s.regCs ∧ t.irqReq = s.irqReq ∧ t.boot = s.boot ∧ t.params = s.params ∧ t.script = s.script ∧
    (∃ r, t.hist = s.hist ∨ t.hist = s.hist ++ [.ret .event r] ∨ t.hist = s.hist ++ [.ret .rst r]) ∧
    (i ≠ .read64 → t.readers = s.readers) ∧ (i ≠ .reset → t.rst = s.rst) ∧
    ((∀ d, i ≠ .arm d) → i ≠ .disable → t.event = s.event)

/-! ## BOOT -/

/-- BOOT run to its end from an unmapped idle block with no other agent stepping (R162, R163), under REF: UPDATE and
STOP written by DISABLE, then everything registered with what R162 lists for it, the timer stopped with nothing pending
and CUR at LOAD. An unmapped block may be one whose BOOT has aborted before (log entry 32, DESIGN CHOICE). -/
def Obligations.BootStopsAndRegisters : Prop :=
  ∀ (s : State) (h : Nat) (ms : List Move), s.params.wf = true → s.params.policy = .ref → s.mapped = false → s.Inv →
    ms = [.boot (.ok h), .bootStep, .event, .event, .bootStep, .bootStep, .bootStep, .bootStep] →
    ∃ t, Sys2Proof.core.run ms.length { s with script := ms } = .next t ∧ t.mapped = true ∧ t.handler = some h ∧
      t.regCe = true ∧ t.irqReq = true ∧ t.regCs = true ∧ t.boot = .idle ∧ t.cnt = s.cnt ∧
      t.timer = { load := s.timer.load, ctrl := s.params.stop, cur := s.timer.load, en := false, pend := false } ∧
      t.hist = s.hist ++
        [.bus .event .write s.params.ctrlOff s.params.update, .bus .event .write s.params.ctrlOff s.params.stop,
          .ret .event .unit] ∧
      t.eventDevice =
        some { rating := s.params.ceRating, features := .oneshot, minDelta := 1#32, maxDelta := 0xF0000000#32,
               rate := s.params.clockHz, setNextEvent := .arm, handler := some h } ∧
      t.interruptRegistration =
        some { line := s.params.irq, entry := .irqEntry, classes := [.timerClass, .pollTolerant] } ∧
      t.counterSource =
        some { lowOff := s.params.cntLoOff, highOff := s.params.cntLoOff + 4, name := s.params.csName,
               rating := s.params.csRating, read := .read64, mask := 0xFFFFFFFFFFFFFFFF#64, flags := .continuous }

/-- A BOOT that aborts changes nothing (R164, R165); a BOOT of a mapped block is refused (R167). -/
def Obligations.BootAbortsOrRefuses : Prop :=
  ∀ (s : State),
    (s.mapped = false → takeMove (.boot .configError) s = .next s ∧ takeMove (.boot .allocFailure) s = .next s) ∧
    (s.mapped = true → ∀ b, takeMove (.boot b) s = .next (s.refuse .bootRepeated))

/-! ## The whole machine -/

/-- Every step keeps the invariant, from every state that meets it. -/
def Obligations.EveryStepKeepsInvariant : Prop :=
  ∀ s t : State, s.Inv → step s = .next t → t.Inv

/-- The state after power-on meets the invariant. -/
def Obligations.ResetStateMeetsInvariant : Prop := State.reset.Inv

/-- The state after power-on, as far as R43 gives values: sequencers idle, nothing mapped or registered, history and
marks empty; the parameters are an admissible choice. -/
def Obligations.ResetStateAsGiven : Prop :=
  State.reset.agentsIdle = true ∧ State.reset.irqh.active = false ∧ State.reset.mapped = false ∧
    State.reset.regCe = false ∧ State.reset.regCs = false ∧ State.reset.irqReq = false ∧ State.reset.handler = none ∧
    State.reset.hist = [] ∧ State.reset.faults = [] ∧ State.reset.refused = false ∧ State.reset.params.wf = true

/-- H only grows: each step appends (R41). FAULT and REFUSED start empty and false, and no step removes a member of FAULT or
clears REFUSED (R42). -/
def Obligations.HistoryAndMarksOnlyGrow : Prop :=
  (∀ s t : State, step s = .next t → ∃ es, t.hist = s.hist ++ es) ∧
  State.reset.faults = [] ∧ State.reset.refused = false ∧
  ∀ s t : State, step s = .next t → (∀ f ∈ s.faults, f ∈ t.faults) ∧ (s.refused = true → t.refused = true)

/-- Under REF, PEND is set only by a fire at a tick and cleared only by a CTRL write of STOP; the one other change is a
system reset's draw (R32, R137). -/
def Obligations.PendSetByFireClearedByStop : Prop :=
  ∀ (s t : State) (m : Move), s.params.wf = true → s.params.policy = .ref → takeMove m s = .next t → m ≠ .sysreset →
    (s.timer.pend = false → t.timer.pend = true → m = .tick ∧ s.timer.en = true ∧ s.timer.cur.toNat ≤ 1) ∧
    (s.timer.pend = true → t.timer.pend = false →
      t.timer.ctrl = s.params.stop ∧
        ∃ a es, t.hist = s.hist ++ [.bus a .write s.params.ctrlOff s.params.stop] ++ es)

/-- CNT changes only at TICK and at a system reset's draw (R22, R137), and the parameters never change. -/
def Obligations.CounterChangesOnlyAtTick : Prop :=
  ∀ (s t : State) (m : Move), takeMove m s = .next t →
    t.params = s.params ∧ (t.cnt = s.cnt ∨ (m = .tick ∧ t.cnt = s.cnt + 1#64) ∨ m = .sysreset)

/-- Termination under fairness (R179). In every weakly fair execution from a state that meets the invariant: TICK takes
infinitely many steps (R92); every READ64, ARM, DISABLE and IRQ_ENTRY under way completes with its own return, IRQ_ENTRY
whatever finite list its callback answers, because the operations of the answer complete; and a mapped RESET under way
reaches HALTED. Only a system reset, which abandons every operation (R137), may come first; nothing forces it. Whose step
fairness obliges (IRQH's at step CB, HOST's while BOOT is under way, not a command of HOST) is log entry 34. -/
def Obligations.FairOperationsComplete : Prop :=
  ∀ (states : Nat → State) (moves : Nat → Move), Execution states moves → WeaklyFair states moves → (states 0).Inv →
    ∀ n : Nat,
      (∃ m, n ≤ m ∧ moves m = .tick) ∧
      (∀ k, (states n).read64UnderWay k →
        Completes states moves n (State.read64UnderWay k) (.reader k) (fun r => ∃ v, r = .value v)) ∧
      ((states n).armUnderWay → Completes states moves n State.armUnderWay .event (fun r => r = .ok)) ∧
      ((states n).disableUnderWay → Completes states moves n State.disableUnderWay .event (fun r => r = .unit)) ∧
      ((states n).irqEntryUnderWay → Completes states moves n State.irqEntryUnderWay .irqh (fun r => r = .handled)) ∧
      ((states n).resetUnderWay →
        ∃ m, n ≤ m ∧ (∀ j, n ≤ j → j ≤ m → (states j).resetUnderWay) ∧ (states (m + 1)).rst = .halted)
end

