-- ==== Sys2Proof/Laws/Bits.lean ====
section
/-!
SUPPORT. The bit fields as numbers: halves and pairs of a 64-bit value, and the fields of a bus record.
-/
namespace Sys2Proof

theorem extract_toNat (w : DWord) (a n : Nat) : (w.extractLsb' a n).toNat = w.toNat / 2 ^ a % 2 ^ n := by
  simp [Nat.shiftRight_eq_div_pow]

theorem hi32_toNat (w : DWord) : (hi32 w).toNat = w.toNat / 2 ^ 32 := by
  have h := w.isLt
  rw [hi32, extract_toNat, Nat.mod_eq_of_lt (by omega)]

theorem lo32_toNat (w : DWord) : (lo32 w).toNat = w.toNat % 2 ^ 32 := by
  rw [lo32, extract_toNat]
  simp

theorem pair_toNat (a b : Word) : (pair a b).toNat = a.toNat * 2 ^ 32 + b.toNat := by
  have ha := a.isLt
  have hb := b.isLt
  simp only [pair, zext64, BitVec.toNat_or, BitVec.toNat_shiftLeft, BitVec.toNat_setWidth]
  rw [Nat.mod_eq_of_lt (show a.toNat < 2 ^ 64 by omega), Nat.mod_eq_of_lt (show b.toNat < 2 ^ 64 by omega),
    Nat.shiftLeft_eq, Nat.mod_eq_of_lt (by omega), ← Nat.shiftLeft_eq, ← Nat.shiftLeft_add_eq_or_of_lt (by omega)]

@[simp] theorem hi32_pair (a b : Word) : hi32 (pair a b) = a := by
  have hb := b.isLt
  apply BitVec.eq_of_toNat_eq
  rw [hi32_toNat, pair_toNat]
  omega

@[simp] theorem lo32_pair (a b : Word) : lo32 (pair a b) = b := by
  have hb := b.isLt
  apply BitVec.eq_of_toNat_eq
  rw [lo32_toNat, pair_toNat]
  omega

@[simp] theorem pair_hi32_lo32 (w : DWord) : pair (hi32 w) (lo32 w) = w := by
  apply BitVec.eq_of_toNat_eq
  rw [pair_toNat, hi32_toNat, lo32_toNat]
  omega

theorem eq_iff_toNat_eq {n : Nat} (x y : BitVec n) : x = y ↔ x.toNat = y.toNat :=
  ⟨fun h => by rw [h], BitVec.eq_of_toNat_eq⟩

/-- The low half of a bus record as a number (R69). -/
theorem busRecord_low_toNat (d : Dir) {off : Nat} (h : off < 4096) :
    ((if d = .write then 0x10000#32 else 0#32) ||| (BitVec.ofNat 12 off).setWidth 32).toNat =
      (if d = .write then 2 ^ 16 else 0) + off := by
  rw [BitVec.toNat_or, BitVec.toNat_setWidth, BitVec.toNat_ofNat, Nat.mod_eq_of_lt (show off < 2 ^ 12 from h),
    Nat.mod_eq_of_lt (show off < 2 ^ 32 by omega)]
  cases d
  · simp
  · simp only [if_true]
    rw [show (0x10000#32).toNat = 1 <<< 16 from rfl, ← Nat.shiftLeft_add_eq_or_of_lt (by omega)]
    rfl

/-- A bus record as a number (R69). -/
theorem busRecord_toNat (d : Dir) {off : Nat} (v : Word) (h : off < 4096) :
    (busRecord d off v).toNat = v.toNat * 2 ^ 32 + ((if d = .write then 2 ^ 16 else 0) + off) := by
  rw [busRecord, pair_toNat, busRecord_low_toNat d h]

/-- `decodeBus` with the record's fields as numbers (R69, R71). -/
theorem decodeBus_eq (p : Params) (w : DWord) :
    decodeBus p w =
      if w.toNat / 2 ^ 17 % 2 ^ 15 ≠ 0 ∨ w.toNat / 2 ^ 12 % 2 ^ 4 ≠ 0 then .error .reservedRecordBits
      else transactionAt p (if w.toNat / 2 ^ 16 % 2 = 1 then .write else .read) (w.toNat % 2 ^ 12) (hi32 w) := by
  simp only [decodeBus, ne_eq, eq_iff_toNat_eq, extract_toNat, BitVec.toNat_ofNat, Nat.zero_mod, Nat.pow_zero, Nat.div_one,
    Nat.pow_one, show 1 % 2 = 1 from rfl]

/-- `decodeCmd` with the word's fields as numbers (R64, R67). -/
theorem decodeCmd_eq (w : DWord) :
    decodeCmd w =
      if w.toNat / 2 ^ 8 % 2 ^ 24 ≠ 0 then .error .reservedCommandBits
      else if w.toNat % 2 ^ 8 = 1 then (if w.toNat / 2 ^ 32 ≠ 0 then .error .nonZeroOperand else .ok .read64)
      else if w.toNat % 2 ^ 8 = 2 then .ok (.arm (hi32 w))
      else if w.toNat % 2 ^ 8 = 3 then (if w.toNat / 2 ^ 32 ≠ 0 then .error .nonZeroOperand else .ok .disable)
      else if w.toNat % 2 ^ 8 = 4 then (if w.toNat / 2 ^ 32 ≠ 0 then .error .nonZeroOperand else .ok .reset)
      else if w.toNat % 2 ^ 8 = 5 then (if w.toNat / 2 ^ 32 ≠ 0 then .error .nonZeroOperand else .ok .irqEntry)
      else .error .illegalOpcode := by
  simp only [decodeCmd, ne_eq, eq_iff_toNat_eq, extract_toNat, hi32_toNat, BitVec.toNat_ofNat, Nat.zero_mod, Nat.pow_zero,
    Nat.div_one, show 1 % 2 ^ 8 = 1 from rfl, show 2 % 2 ^ 8 = 2 from rfl, show 3 % 2 ^ 8 = 3 from rfl,
    show 4 % 2 ^ 8 = 4 from rfl, show 5 % 2 ^ 8 = 5 from rfl]

/-! ## The register map -/

/-- What admissible parameters say of the offsets (R10). -/
theorem Params.wf_offsets {p : Params} (h : p.wf = true) :
    p.base % 4 = 0 ∧ p.cntLoOff % 4 = 0 ∧ p.loadOff % 4 = 0 ∧ p.ctrlOff % 4 = 0 ∧ p.offsets.Nodup := by
  simp only [Params.wf, Params.alignedOk, Params.distinctOk, Bool.and_eq_true, beq_iff_eq, decide_eq_true_eq] at h
  obtain ⟨⟨⟨⟨⟨⟨⟨hb, hc⟩, hl⟩, ht⟩, hn⟩, _⟩, _⟩, _⟩ := h
  exact ⟨hb, hc, hl, ht, hn⟩

/-- What admissible parameters say of the three masks (R10). -/
theorem Params.wf_masks {p : Params} (h : p.wf = true) :
    oneBit p.stop = true ∧ oneBit p.run = true ∧ oneBit p.update = true ∧ p.stop ≠ p.run ∧ p.stop ≠ p.update ∧
      p.run ≠ p.update := by
  simp only [Params.wf, Params.masksOk, Bool.and_eq_true, bne_iff_ne] at h
  obtain ⟨⟨_, m⟩, _⟩ := h
  exact ⟨m.1.1.1.1.1, m.1.1.1.1.2, m.1.1.1.2, m.1.1.2, m.1.2, m.2⟩

/-- A single bit is not zero. -/
theorem oneBit_ne_zero {m : Word} (h : oneBit m = true) : m ≠ 0#32 := by
  simp only [oneBit, List.any_eq_true, List.mem_range, beq_iff_eq] at h
  obtain ⟨i, hi, rfl⟩ := h
  rw [ne_eq, eq_iff_toNat_eq, BitVec.toNat_twoPow, Nat.mod_eq_of_lt (Nat.pow_lt_pow_right (by decide) hi)]
  simp

/-- Two different single bits have no bit in common. -/
theorem oneBit_and_eq_zero {a b : Word} (ha : oneBit a = true) (hb : oneBit b = true) (hab : a ≠ b) : a &&& b = 0#32 := by
  simp only [oneBit, List.any_eq_true, List.mem_range, beq_iff_eq] at ha hb
  obtain ⟨i, _, rfl⟩ := ha
  obtain ⟨j, _, rfl⟩ := hb
  have hij : i ≠ j := fun e => hab (by rw [e])
  apply BitVec.eq_of_getLsbD_eq
  intro k hk
  simp only [BitVec.getLsbD_and, BitVec.getLsbD_twoPow, BitVec.getLsbD_zero]
  by_cases h : i = k
  · subst h
    simp [hij.symm]
  · simp [h]

/-- RUN alone and RUN with UPDATE hold the RUN bit; UPDATE alone does not (R28, R111). -/
theorem Params.run_bit {p : Params} (h : p.wf = true) :
    p.run &&& p.run ≠ 0#32 ∧ (p.run ||| p.update) &&& p.run ≠ 0#32 ∧ p.update &&& p.run = 0#32 := by
  obtain ⟨_, hr, hu, _, _, hne⟩ := Params.wf_masks h
  have hz := oneBit_and_eq_zero hu hr hne.symm
  have hr0 := oneBit_ne_zero hr
  refine ⟨by simpa using hr0, ?_, hz⟩
  intro e
  have e' : p.run &&& (p.run ||| p.update) = 0#32 := by rw [BitVec.and_comm]; exact e
  apply hr0
  rw [← e']
  apply BitVec.eq_of_getLsbD_eq
  intro k hk
  simp only [BitVec.getLsbD_and, BitVec.getLsbD_or]
  cases p.run.getLsbD k <;> rfl

/-- The four values of R72 are pairwise distinct, STOP among them. -/
theorem Params.ctrl_distinct {p : Params} (h : p.wf = true) :
    p.run ≠ p.stop ∧ p.update ≠ p.stop ∧ p.run ||| p.update ≠ p.stop ∧ p.run ≠ p.update ∧ p.run ||| p.update ≠ p.update := by
  obtain ⟨hs, hr, hu, h1, h2, h3⟩ := Params.wf_masks h
  obtain ⟨b1, b2, b3⟩ := Params.run_bit h
  refine ⟨h1.symm, h2.symm, fun e => ?_, h3, fun e => ?_⟩
  · rw [e] at b2
    exact b2 (oneBit_and_eq_zero hs hr h1)
  · rw [e] at b2
    exact b2 b3

/-- An offset of the map is a multiple of 4 (R49). -/
theorem regOffset_aligned {p : Params} (h : p.wf = true) (r : Reg) : regOffset p r % 4 = 0 := by
  obtain ⟨_, h1, h2, h3, _⟩ := Params.wf_offsets h
  cases r <;> simp only [regOffset] <;> omega

/-- An offset of a recordable map fits a record's OFF field (R69). -/
theorem regOffset_lt {p : Params} (h : p.recordable = true) (r : Reg) : regOffset p r < 4096 := by
  simp only [Params.recordable, List.all_eq_true, decide_eq_true_eq] at h
  cases r <;> exact h _ (by simp [Params.offsets, regOffset])

/-- The map gives each register's offset back to it (R46). -/
theorem regAt_regOffset {p : Params} (h : p.wf = true) (r : Reg) : regAt p (regOffset p r) = some r := by
  obtain ⟨_, _, _, _, hn⟩ := Params.wf_offsets h
  simp only [Params.offsets, List.nodup_cons, List.mem_cons, List.not_mem_nil, not_or, or_false] at hn
  cases r <;> simp only [regOffset, regAt] <;> (repeat' split) <;>
    first | rfl | omega | exact absurd trivial (by assumption)

theorem regAt_eq_some {p : Params} {off : Nat} {r : Reg} (h : regAt p off = some r) : off = regOffset p r := by
  unfold regAt at h
  repeat' split at h
  all_goals first | (cases h; assumption) | cases h

end Sys2Proof
end

