-- ==== Sys2Proof/Laws/Countdown.lean ====
section
/-!
SUPPORT. The countdown unit: runs of ticks and writes taken apart, the policy the parameters name, and REF's functions.
-/
namespace Sys2Proof.Machine

/-! ## Runs -/

theorem Policy.run_append (P : Policy) (xs ys : List TimerOp) (c : Countdown) :
    P.run (xs ++ ys) c = P.run ys (P.run xs c) := by
  simp [Policy.run]

@[simp] theorem Policy.run_cons (P : Policy) (x : TimerOp) (xs : List TimerOp) (c : Countdown) :
    P.run (x :: xs) c = P.run xs (P.op c x) := rfl

@[simp] theorem Policy.run_nil (P : Policy) (c : Countdown) : P.run [] c = c := rfl

@[simp] theorem Policy.op_tick (P : Policy) (c : Countdown) : P.op c .tick = P.tick c := rfl

@[simp] theorem Policy.op_load (P : Policy) (c : Countdown) (v : Word) : P.op c (.load v) = P.loadWrite v c := rfl

@[simp] theorem Policy.op_ctrl (P : Policy) (c : Countdown) (v : Word) :
    P.op c (.ctrl v) = P.ctrlWrite v { c with ctrl := v } := rfl

theorem timerRun_append (p : Params) (xs ys : List TimerOp) (c : Countdown) :
    timerRun p (xs ++ ys) c = timerRun p ys (timerRun p xs c) := Policy.run_append _ xs ys c

theorem timerRun_tick (p : Params) (xs : List TimerOp) (c : Countdown) :
    timerRun p (.tick :: xs) c = timerRun p xs (countdownTick p c) := rfl

theorem timerRun_load (p : Params) (v : Word) (xs : List TimerOp) (c : Countdown) :
    timerRun p (.load v :: xs) c = timerRun p xs (writeLoad p v c) := rfl

theorem timerRun_ctrl (p : Params) (v : Word) (xs : List TimerOp) (c : Countdown) :
    timerRun p (.ctrl v :: xs) c = timerRun p xs (writeCtrl p v c) := rfl

theorem timerRun_nil (p : Params) (c : Countdown) : timerRun p [] c = c := rfl

theorem ticks_zero : ticks 0 = [] := rfl

theorem ticks_succ (n : Nat) : ticks (n + 1) = .tick :: ticks n := rfl

/-! ## The policy named -/

@[simp] theorem masksOf_stop (p : Params) : (masksOf p).stop = p.stop := rfl

@[simp] theorem masksOf_run (p : Params) : (masksOf p).run = p.run := rfl

@[simp] theorem masksOf_update (p : Params) : (masksOf p).update = p.update := rfl

theorem latchPolicy_ref {p : Params} (h : p.policy = .ref) : latchPolicy p = refPolicy (masksOf p) := by
  simp [latchPolicy, h]

/-- The policy named is REF, or meets R118. -/
theorem latchPolicy_cases (p : Params) :
    latchPolicy p = refPolicy (masksOf p) ∨ (latchPolicy p).Admissible (masksOf p) := by
  unfold latchPolicy
  split
  · exact .inl rfl
  · split
    · rename_i P _
      exact .inr P.property
    · exact .inl rfl

@[simp] theorem refPolicy_loadWrite (m : Masks) : (refPolicy m).loadWrite = refLoadWrite := rfl

@[simp] theorem refPolicy_ctrlWrite (m : Masks) : (refPolicy m).ctrlWrite = refCtrlWrite m := rfl

@[simp] theorem refPolicy_tick (m : Masks) : (refPolicy m).tick = refTick := rfl

theorem loadWrite_ref {p : Params} (h : p.policy = .ref) (v : Word) (c : Countdown) :
    loadWrite p v c = refLoadWrite v c := by
  rw [loadWrite, latchPolicy_ref h]
  rfl

theorem ctrlWrite_ref {p : Params} (h : p.policy = .ref) (v : Word) (c : Countdown) :
    ctrlWrite p v c = refCtrlWrite (masksOf p) v c := by
  rw [ctrlWrite, latchPolicy_ref h]
  rfl

theorem countdownTick_ref {p : Params} (h : p.policy = .ref) (c : Countdown) : countdownTick p c = refTick c := by
  rw [countdownTick, latchPolicy_ref h]
  rfl

/-! ## REF at the four admitted values (R111) -/

theorem refCtrlWrite_stop (m : Masks) (c : Countdown) : refCtrlWrite m m.stop c = { c with en := false, pend := false } := by
  simp [refCtrlWrite]

theorem refCtrlWrite_update {p : Params} (h : p.wf = true) (c : Countdown) :
    refCtrlWrite (masksOf p) p.update c = { c with cur := c.load, en := false } := by
  simp [refCtrlWrite, (Params.ctrl_distinct h).2.1, (Params.run_bit h).2.2]

theorem refCtrlWrite_run {p : Params} (h : p.wf = true) (c : Countdown) :
    refCtrlWrite (masksOf p) p.run c = { c with cur := c.load, en := true } := by
  have hr := (Params.run_bit h).1
  rw [BitVec.and_self] at hr
  simp [refCtrlWrite, (Params.ctrl_distinct h).1, hr]

theorem refCtrlWrite_runUpdate {p : Params} (h : p.wf = true) (c : Countdown) :
    refCtrlWrite (masksOf p) (p.run ||| p.update) c = { c with cur := c.load, en := true } := by
  simp [refCtrlWrite, (Params.ctrl_distinct h).2.2.1, (Params.run_bit h).2.1]

end Sys2Proof.Machine
end

