-- ==== Sys2Proof/Laws/State.lean ====
section
/-!
SUPPORT. One lemma per field per named update of the state, so that no proof unfolds a record update.
-/
namespace Sys2Proof.Machine

variable (s : State)

/-! ### `State.record` -/

@[simp] theorem State.record_params (e : Event) : (s.record e).params = s.params := rfl
@[simp] theorem State.record_cnt (e : Event) : (s.record e).cnt = s.cnt := rfl
@[simp] theorem State.record_timer (e : Event) : (s.record e).timer = s.timer := rfl
@[simp] theorem State.record_rst20 (e : Event) : (s.record e).rst20 = s.rst20 := rfl
@[simp] theorem State.record_rst24 (e : Event) : (s.record e).rst24 = s.rst24 := rfl
@[simp] theorem State.record_rst2C (e : Event) : (s.record e).rst2C = s.rst2C := rfl
@[simp] theorem State.record_readers (e : Event) : (s.record e).readers = s.readers := rfl
@[simp] theorem State.record_event (e : Event) : (s.record e).event = s.event := rfl
@[simp] theorem State.record_irqh (e : Event) : (s.record e).irqh = s.irqh := rfl
@[simp] theorem State.record_rst (e : Event) : (s.record e).rst = s.rst := rfl
@[simp] theorem State.record_mapped (e : Event) : (s.record e).mapped = s.mapped := rfl
@[simp] theorem State.record_handler (e : Event) : (s.record e).handler = s.handler := rfl
@[simp] theorem State.record_regCe (e : Event) : (s.record e).regCe = s.regCe := rfl
@[simp] theorem State.record_regCs (e : Event) : (s.record e).regCs = s.regCs := rfl
@[simp] theorem State.record_irqReq (e : Event) : (s.record e).irqReq = s.irqReq := rfl
@[simp] theorem State.record_hist (e : Event) : (s.record e).hist = s.hist ++ [e] := rfl
@[simp] theorem State.record_faults (e : Event) : (s.record e).faults = s.faults := rfl
@[simp] theorem State.record_refused (e : Event) : (s.record e).refused = s.refused := rfl
@[simp] theorem State.record_lastRefusal (e : Event) : (s.record e).lastRefusal = s.lastRefusal := rfl
@[simp] theorem State.record_boot (e : Event) : (s.record e).boot = s.boot := rfl
@[simp] theorem State.record_issuer (e : Event) : (s.record e).issuer = s.issuer := rfl
@[simp] theorem State.record_master (e : Event) : (s.record e).master = s.master := rfl
@[simp] theorem State.record_busData (e : Event) : (s.record e).busData = s.busData := rfl
@[simp] theorem State.record_script (e : Event) : (s.record e).script = s.script := rfl
@[simp] theorem State.record_draws (e : Event) : (s.record e).draws = s.draws := rfl

/-! ### `State.refuse` -/

@[simp] theorem State.refuse_params (r : Reason) : (s.refuse r).params = s.params := rfl
@[simp] theorem State.refuse_cnt (r : Reason) : (s.refuse r).cnt = s.cnt := rfl
@[simp] theorem State.refuse_timer (r : Reason) : (s.refuse r).timer = s.timer := rfl
@[simp] theorem State.refuse_rst20 (r : Reason) : (s.refuse r).rst20 = s.rst20 := rfl
@[simp] theorem State.refuse_rst24 (r : Reason) : (s.refuse r).rst24 = s.rst24 := rfl
@[simp] theorem State.refuse_rst2C (r : Reason) : (s.refuse r).rst2C = s.rst2C := rfl
@[simp] theorem State.refuse_readers (r : Reason) : (s.refuse r).readers = s.readers := rfl
@[simp] theorem State.refuse_event (r : Reason) : (s.refuse r).event = s.event := rfl
@[simp] theorem State.refuse_irqh (r : Reason) : (s.refuse r).irqh = s.irqh := rfl
@[simp] theorem State.refuse_rst (r : Reason) : (s.refuse r).rst = s.rst := rfl
@[simp] theorem State.refuse_mapped (r : Reason) : (s.refuse r).mapped = s.mapped := rfl
@[simp] theorem State.refuse_handler (r : Reason) : (s.refuse r).handler = s.handler := rfl
@[simp] theorem State.refuse_regCe (r : Reason) : (s.refuse r).regCe = s.regCe := rfl
@[simp] theorem State.refuse_regCs (r : Reason) : (s.refuse r).regCs = s.regCs := rfl
@[simp] theorem State.refuse_irqReq (r : Reason) : (s.refuse r).irqReq = s.irqReq := rfl
@[simp] theorem State.refuse_hist (r : Reason) : (s.refuse r).hist = s.hist := rfl
@[simp] theorem State.refuse_faults (r : Reason) : (s.refuse r).faults = s.faults := rfl
@[simp] theorem State.refuse_refused (r : Reason) : (s.refuse r).refused = true := rfl
@[simp] theorem State.refuse_lastRefusal (r : Reason) : (s.refuse r).lastRefusal = some r := rfl
@[simp] theorem State.refuse_boot (r : Reason) : (s.refuse r).boot = s.boot := rfl
@[simp] theorem State.refuse_issuer (r : Reason) : (s.refuse r).issuer = s.issuer := rfl
@[simp] theorem State.refuse_master (r : Reason) : (s.refuse r).master = s.master := rfl
@[simp] theorem State.refuse_busData (r : Reason) : (s.refuse r).busData = s.busData := rfl
@[simp] theorem State.refuse_script (r : Reason) : (s.refuse r).script = s.script := rfl
@[simp] theorem State.refuse_draws (r : Reason) : (s.refuse r).draws = s.draws := rfl

/-! ### `State.raiseFault` -/

@[simp] theorem State.raiseFault_params (f : FaultReason) : (s.raiseFault f).params = s.params := rfl
@[simp] theorem State.raiseFault_cnt (f : FaultReason) : (s.raiseFault f).cnt = s.cnt := rfl
@[simp] theorem State.raiseFault_timer (f : FaultReason) : (s.raiseFault f).timer = s.timer := rfl
@[simp] theorem State.raiseFault_rst20 (f : FaultReason) : (s.raiseFault f).rst20 = s.rst20 := rfl
@[simp] theorem State.raiseFault_rst24 (f : FaultReason) : (s.raiseFault f).rst24 = s.rst24 := rfl
@[simp] theorem State.raiseFault_rst2C (f : FaultReason) : (s.raiseFault f).rst2C = s.rst2C := rfl
@[simp] theorem State.raiseFault_readers (f : FaultReason) : (s.raiseFault f).readers = s.readers := rfl
@[simp] theorem State.raiseFault_event (f : FaultReason) : (s.raiseFault f).event = s.event := rfl
@[simp] theorem State.raiseFault_irqh (f : FaultReason) : (s.raiseFault f).irqh = s.irqh := rfl
@[simp] theorem State.raiseFault_rst (f : FaultReason) : (s.raiseFault f).rst = s.rst := rfl
@[simp] theorem State.raiseFault_mapped (f : FaultReason) : (s.raiseFault f).mapped = s.mapped := rfl
@[simp] theorem State.raiseFault_handler (f : FaultReason) : (s.raiseFault f).handler = s.handler := rfl
@[simp] theorem State.raiseFault_regCe (f : FaultReason) : (s.raiseFault f).regCe = s.regCe := rfl
@[simp] theorem State.raiseFault_regCs (f : FaultReason) : (s.raiseFault f).regCs = s.regCs := rfl
@[simp] theorem State.raiseFault_irqReq (f : FaultReason) : (s.raiseFault f).irqReq = s.irqReq := rfl
@[simp] theorem State.raiseFault_hist (f : FaultReason) : (s.raiseFault f).hist = s.hist := rfl
@[simp] theorem State.raiseFault_faults (f : FaultReason) : (s.raiseFault f).faults = if s.faults.contains f then s.faults else s.faults ++ [f] := rfl
@[simp] theorem State.raiseFault_refused (f : FaultReason) : (s.raiseFault f).refused = s.refused := rfl
@[simp] theorem State.raiseFault_lastRefusal (f : FaultReason) : (s.raiseFault f).lastRefusal = s.lastRefusal := rfl
@[simp] theorem State.raiseFault_boot (f : FaultReason) : (s.raiseFault f).boot = s.boot := rfl
@[simp] theorem State.raiseFault_issuer (f : FaultReason) : (s.raiseFault f).issuer = s.issuer := rfl
@[simp] theorem State.raiseFault_master (f : FaultReason) : (s.raiseFault f).master = s.master := rfl
@[simp] theorem State.raiseFault_busData (f : FaultReason) : (s.raiseFault f).busData = s.busData := rfl
@[simp] theorem State.raiseFault_script (f : FaultReason) : (s.raiseFault f).script = s.script := rfl
@[simp] theorem State.raiseFault_draws (f : FaultReason) : (s.raiseFault f).draws = s.draws := rfl

/-! ### `State.ret` -/

@[simp] theorem State.ret_params (a : Agent) (r : Result) : (s.ret a r).params = s.params := rfl
@[simp] theorem State.ret_cnt (a : Agent) (r : Result) : (s.ret a r).cnt = s.cnt := rfl
@[simp] theorem State.ret_timer (a : Agent) (r : Result) : (s.ret a r).timer = s.timer := rfl
@[simp] theorem State.ret_rst20 (a : Agent) (r : Result) : (s.ret a r).rst20 = s.rst20 := rfl
@[simp] theorem State.ret_rst24 (a : Agent) (r : Result) : (s.ret a r).rst24 = s.rst24 := rfl
@[simp] theorem State.ret_rst2C (a : Agent) (r : Result) : (s.ret a r).rst2C = s.rst2C := rfl
@[simp] theorem State.ret_readers (a : Agent) (r : Result) : (s.ret a r).readers = s.readers := rfl
@[simp] theorem State.ret_event (a : Agent) (r : Result) : (s.ret a r).event = s.event := rfl
@[simp] theorem State.ret_irqh (a : Agent) (r : Result) : (s.ret a r).irqh = { s.irqh with wait := if s.irqh.wait = some a then none else s.irqh.wait } := rfl
@[simp] theorem State.ret_rst (a : Agent) (r : Result) : (s.ret a r).rst = s.rst := rfl
@[simp] theorem State.ret_mapped (a : Agent) (r : Result) : (s.ret a r).mapped = s.mapped := rfl
@[simp] theorem State.ret_handler (a : Agent) (r : Result) : (s.ret a r).handler = s.handler := rfl
@[simp] theorem State.ret_regCe (a : Agent) (r : Result) : (s.ret a r).regCe = s.regCe := rfl
@[simp] theorem State.ret_regCs (a : Agent) (r : Result) : (s.ret a r).regCs = s.regCs := rfl
@[simp] theorem State.ret_irqReq (a : Agent) (r : Result) : (s.ret a r).irqReq = s.irqReq := rfl
@[simp] theorem State.ret_hist (a : Agent) (r : Result) : (s.ret a r).hist = s.hist ++ [.ret a r] := rfl
@[simp] theorem State.ret_faults (a : Agent) (r : Result) : (s.ret a r).faults = s.faults := rfl
@[simp] theorem State.ret_refused (a : Agent) (r : Result) : (s.ret a r).refused = s.refused := rfl
@[simp] theorem State.ret_lastRefusal (a : Agent) (r : Result) : (s.ret a r).lastRefusal = s.lastRefusal := rfl
@[simp] theorem State.ret_boot (a : Agent) (r : Result) : (s.ret a r).boot = s.boot := rfl
@[simp] theorem State.ret_issuer (a : Agent) (r : Result) : (s.ret a r).issuer = s.issuer := rfl
@[simp] theorem State.ret_master (a : Agent) (r : Result) : (s.ret a r).master = s.master := rfl
@[simp] theorem State.ret_busData (a : Agent) (r : Result) : (s.ret a r).busData = s.busData := rfl
@[simp] theorem State.ret_script (a : Agent) (r : Result) : (s.ret a r).script = s.script := rfl
@[simp] theorem State.ret_draws (a : Agent) (r : Result) : (s.ret a r).draws = s.draws := rfl

/-! ### `State.takeInterrupt` -/

@[simp] theorem State.takeInterrupt_params : s.takeInterrupt.params = s.params := rfl
@[simp] theorem State.takeInterrupt_cnt : s.takeInterrupt.cnt = s.cnt := rfl
@[simp] theorem State.takeInterrupt_timer : s.takeInterrupt.timer = s.timer := rfl
@[simp] theorem State.takeInterrupt_rst20 : s.takeInterrupt.rst20 = s.rst20 := rfl
@[simp] theorem State.takeInterrupt_rst24 : s.takeInterrupt.rst24 = s.rst24 := rfl
@[simp] theorem State.takeInterrupt_rst2C : s.takeInterrupt.rst2C = s.rst2C := rfl
@[simp] theorem State.takeInterrupt_readers : s.takeInterrupt.readers = s.readers := rfl
@[simp] theorem State.takeInterrupt_event : s.takeInterrupt.event = s.event := rfl
@[simp] theorem State.takeInterrupt_irqh : s.takeInterrupt.irqh = { step := .h1, active := true, pendingOps := [], answered := false, wait := none } := rfl
@[simp] theorem State.takeInterrupt_rst : s.takeInterrupt.rst = s.rst := rfl
@[simp] theorem State.takeInterrupt_mapped : s.takeInterrupt.mapped = s.mapped := rfl
@[simp] theorem State.takeInterrupt_handler : s.takeInterrupt.handler = s.handler := rfl
@[simp] theorem State.takeInterrupt_regCe : s.takeInterrupt.regCe = s.regCe := rfl
@[simp] theorem State.takeInterrupt_regCs : s.takeInterrupt.regCs = s.regCs := rfl
@[simp] theorem State.takeInterrupt_irqReq : s.takeInterrupt.irqReq = s.irqReq := rfl
@[simp] theorem State.takeInterrupt_hist : s.takeInterrupt.hist = s.hist := rfl
@[simp] theorem State.takeInterrupt_faults : s.takeInterrupt.faults = s.faults := rfl
@[simp] theorem State.takeInterrupt_refused : s.takeInterrupt.refused = s.refused := rfl
@[simp] theorem State.takeInterrupt_lastRefusal : s.takeInterrupt.lastRefusal = s.lastRefusal := rfl
@[simp] theorem State.takeInterrupt_boot : s.takeInterrupt.boot = s.boot := rfl
@[simp] theorem State.takeInterrupt_issuer : s.takeInterrupt.issuer = s.issuer := rfl
@[simp] theorem State.takeInterrupt_master : s.takeInterrupt.master = s.master := rfl
@[simp] theorem State.takeInterrupt_busData : s.takeInterrupt.busData = s.busData := rfl
@[simp] theorem State.takeInterrupt_script : s.takeInterrupt.script = s.script := rfl
@[simp] theorem State.takeInterrupt_draws : s.takeInterrupt.draws = s.draws := rfl

/-! ### `State.returnFromInterrupt` -/

@[simp] theorem State.returnFromInterrupt_params : s.returnFromInterrupt.params = s.params := rfl
@[simp] theorem State.returnFromInterrupt_cnt : s.returnFromInterrupt.cnt = s.cnt := rfl
@[simp] theorem State.returnFromInterrupt_timer : s.returnFromInterrupt.timer = s.timer := rfl
@[simp] theorem State.returnFromInterrupt_rst20 : s.returnFromInterrupt.rst20 = s.rst20 := rfl
@[simp] theorem State.returnFromInterrupt_rst24 : s.returnFromInterrupt.rst24 = s.rst24 := rfl
@[simp] theorem State.returnFromInterrupt_rst2C : s.returnFromInterrupt.rst2C = s.rst2C := rfl
@[simp] theorem State.returnFromInterrupt_readers : s.returnFromInterrupt.readers = s.readers := rfl
@[simp] theorem State.returnFromInterrupt_event : s.returnFromInterrupt.event = s.event := rfl
@[simp] theorem State.returnFromInterrupt_rst : s.returnFromInterrupt.rst = s.rst := rfl
@[simp] theorem State.returnFromInterrupt_mapped : s.returnFromInterrupt.mapped = s.mapped := rfl
@[simp] theorem State.returnFromInterrupt_handler : s.returnFromInterrupt.handler = s.handler := rfl
@[simp] theorem State.returnFromInterrupt_regCe : s.returnFromInterrupt.regCe = s.regCe := rfl
@[simp] theorem State.returnFromInterrupt_regCs : s.returnFromInterrupt.regCs = s.regCs := rfl
@[simp] theorem State.returnFromInterrupt_irqReq : s.returnFromInterrupt.irqReq = s.irqReq := rfl
@[simp] theorem State.returnFromInterrupt_hist : s.returnFromInterrupt.hist = s.hist ++ [.ret .irqh .handled] := rfl
@[simp] theorem State.returnFromInterrupt_faults : s.returnFromInterrupt.faults = s.faults := rfl
@[simp] theorem State.returnFromInterrupt_refused : s.returnFromInterrupt.refused = s.refused := rfl
@[simp] theorem State.returnFromInterrupt_lastRefusal : s.returnFromInterrupt.lastRefusal = s.lastRefusal := rfl
@[simp] theorem State.returnFromInterrupt_boot : s.returnFromInterrupt.boot = s.boot := rfl
@[simp] theorem State.returnFromInterrupt_issuer : s.returnFromInterrupt.issuer = s.issuer := rfl
@[simp] theorem State.returnFromInterrupt_master : s.returnFromInterrupt.master = s.master := rfl
@[simp] theorem State.returnFromInterrupt_busData : s.returnFromInterrupt.busData = s.busData := rfl
@[simp] theorem State.returnFromInterrupt_script : s.returnFromInterrupt.script = s.script := rfl
@[simp] theorem State.returnFromInterrupt_draws : s.returnFromInterrupt.draws = s.draws := rfl
@[simp] theorem State.returnFromInterrupt_irqh :
    s.returnFromInterrupt.irqh = { step := .idle, active := false, pendingOps := [], answered := false, wait := none } := rfl

/-! ### `State.tick` -/

@[simp] theorem State.tick_params : s.tick.params = s.params := rfl
@[simp] theorem State.tick_cnt : s.tick.cnt = s.cnt + 1#64 := rfl
@[simp] theorem State.tick_timer : s.tick.timer = countdownTick s.params s.timer := rfl
@[simp] theorem State.tick_rst20 : s.tick.rst20 = s.rst20 := rfl
@[simp] theorem State.tick_rst24 : s.tick.rst24 = s.rst24 := rfl
@[simp] theorem State.tick_rst2C : s.tick.rst2C = s.rst2C := rfl
@[simp] theorem State.tick_readers : s.tick.readers = s.readers := rfl
@[simp] theorem State.tick_event : s.tick.event = s.event := rfl
@[simp] theorem State.tick_irqh : s.tick.irqh = s.irqh := rfl
@[simp] theorem State.tick_rst : s.tick.rst = s.rst := rfl
@[simp] theorem State.tick_mapped : s.tick.mapped = s.mapped := rfl
@[simp] theorem State.tick_handler : s.tick.handler = s.handler := rfl
@[simp] theorem State.tick_regCe : s.tick.regCe = s.regCe := rfl
@[simp] theorem State.tick_regCs : s.tick.regCs = s.regCs := rfl
@[simp] theorem State.tick_irqReq : s.tick.irqReq = s.irqReq := rfl
@[simp] theorem State.tick_hist : s.tick.hist = s.hist ++ [.tick] := rfl
@[simp] theorem State.tick_faults : s.tick.faults = s.faults := rfl
@[simp] theorem State.tick_refused : s.tick.refused = s.refused := rfl
@[simp] theorem State.tick_lastRefusal : s.tick.lastRefusal = s.lastRefusal := rfl
@[simp] theorem State.tick_boot : s.tick.boot = s.boot := rfl
@[simp] theorem State.tick_issuer : s.tick.issuer = s.issuer := rfl
@[simp] theorem State.tick_master : s.tick.master = s.master := rfl
@[simp] theorem State.tick_busData : s.tick.busData = s.busData := rfl
@[simp] theorem State.tick_script : s.tick.script = s.script := rfl
@[simp] theorem State.tick_draws : s.tick.draws = s.draws := rfl

/-! ### `State.setReader` -/

@[simp] theorem State.setReader_params (k : Nat) (r : Reader) : (s.setReader k r).params = s.params := rfl
@[simp] theorem State.setReader_cnt (k : Nat) (r : Reader) : (s.setReader k r).cnt = s.cnt := rfl
@[simp] theorem State.setReader_timer (k : Nat) (r : Reader) : (s.setReader k r).timer = s.timer := rfl
@[simp] theorem State.setReader_rst20 (k : Nat) (r : Reader) : (s.setReader k r).rst20 = s.rst20 := rfl
@[simp] theorem State.setReader_rst24 (k : Nat) (r : Reader) : (s.setReader k r).rst24 = s.rst24 := rfl
@[simp] theorem State.setReader_rst2C (k : Nat) (r : Reader) : (s.setReader k r).rst2C = s.rst2C := rfl
@[simp] theorem State.setReader_readers (k : Nat) (r : Reader) : (s.setReader k r).readers = s.readers.set k r := rfl
@[simp] theorem State.setReader_event (k : Nat) (r : Reader) : (s.setReader k r).event = s.event := rfl
@[simp] theorem State.setReader_irqh (k : Nat) (r : Reader) : (s.setReader k r).irqh = s.irqh := rfl
@[simp] theorem State.setReader_rst (k : Nat) (r : Reader) : (s.setReader k r).rst = s.rst := rfl
@[simp] theorem State.setReader_mapped (k : Nat) (r : Reader) : (s.setReader k r).mapped = s.mapped := rfl
@[simp] theorem State.setReader_handler (k : Nat) (r : Reader) : (s.setReader k r).handler = s.handler := rfl
@[simp] theorem State.setReader_regCe (k : Nat) (r : Reader) : (s.setReader k r).regCe = s.regCe := rfl
@[simp] theorem State.setReader_regCs (k : Nat) (r : Reader) : (s.setReader k r).regCs = s.regCs := rfl
@[simp] theorem State.setReader_irqReq (k : Nat) (r : Reader) : (s.setReader k r).irqReq = s.irqReq := rfl
@[simp] theorem State.setReader_hist (k : Nat) (r : Reader) : (s.setReader k r).hist = s.hist := rfl
@[simp] theorem State.setReader_faults (k : Nat) (r : Reader) : (s.setReader k r).faults = s.faults := rfl
@[simp] theorem State.setReader_refused (k : Nat) (r : Reader) : (s.setReader k r).refused = s.refused := rfl
@[simp] theorem State.setReader_lastRefusal (k : Nat) (r : Reader) : (s.setReader k r).lastRefusal = s.lastRefusal := rfl
@[simp] theorem State.setReader_boot (k : Nat) (r : Reader) : (s.setReader k r).boot = s.boot := rfl
@[simp] theorem State.setReader_issuer (k : Nat) (r : Reader) : (s.setReader k r).issuer = s.issuer := rfl
@[simp] theorem State.setReader_master (k : Nat) (r : Reader) : (s.setReader k r).master = s.master := rfl
@[simp] theorem State.setReader_busData (k : Nat) (r : Reader) : (s.setReader k r).busData = s.busData := rfl
@[simp] theorem State.setReader_script (k : Nat) (r : Reader) : (s.setReader k r).script = s.script := rfl
@[simp] theorem State.setReader_draws (k : Nat) (r : Reader) : (s.setReader k r).draws = s.draws := rfl

/-! ### `State.setEventStep` -/

@[simp] theorem State.setEventStep_params (st : EventStep) : (s.setEventStep st).params = s.params := rfl
@[simp] theorem State.setEventStep_cnt (st : EventStep) : (s.setEventStep st).cnt = s.cnt := rfl
@[simp] theorem State.setEventStep_timer (st : EventStep) : (s.setEventStep st).timer = s.timer := rfl
@[simp] theorem State.setEventStep_rst20 (st : EventStep) : (s.setEventStep st).rst20 = s.rst20 := rfl
@[simp] theorem State.setEventStep_rst24 (st : EventStep) : (s.setEventStep st).rst24 = s.rst24 := rfl
@[simp] theorem State.setEventStep_rst2C (st : EventStep) : (s.setEventStep st).rst2C = s.rst2C := rfl
@[simp] theorem State.setEventStep_readers (st : EventStep) : (s.setEventStep st).readers = s.readers := rfl
@[simp] theorem State.setEventStep_event (st : EventStep) : (s.setEventStep st).event = { s.event with step := st } := rfl
@[simp] theorem State.setEventStep_irqh (st : EventStep) : (s.setEventStep st).irqh = s.irqh := rfl
@[simp] theorem State.setEventStep_rst (st : EventStep) : (s.setEventStep st).rst = s.rst := rfl
@[simp] theorem State.setEventStep_mapped (st : EventStep) : (s.setEventStep st).mapped = s.mapped := rfl
@[simp] theorem State.setEventStep_handler (st : EventStep) : (s.setEventStep st).handler = s.handler := rfl
@[simp] theorem State.setEventStep_regCe (st : EventStep) : (s.setEventStep st).regCe = s.regCe := rfl
@[simp] theorem State.setEventStep_regCs (st : EventStep) : (s.setEventStep st).regCs = s.regCs := rfl
@[simp] theorem State.setEventStep_irqReq (st : EventStep) : (s.setEventStep st).irqReq = s.irqReq := rfl
@[simp] theorem State.setEventStep_hist (st : EventStep) : (s.setEventStep st).hist = s.hist := rfl
@[simp] theorem State.setEventStep_faults (st : EventStep) : (s.setEventStep st).faults = s.faults := rfl
@[simp] theorem State.setEventStep_refused (st : EventStep) : (s.setEventStep st).refused = s.refused := rfl
@[simp] theorem State.setEventStep_lastRefusal (st : EventStep) : (s.setEventStep st).lastRefusal = s.lastRefusal := rfl
@[simp] theorem State.setEventStep_boot (st : EventStep) : (s.setEventStep st).boot = s.boot := rfl
@[simp] theorem State.setEventStep_issuer (st : EventStep) : (s.setEventStep st).issuer = s.issuer := rfl
@[simp] theorem State.setEventStep_master (st : EventStep) : (s.setEventStep st).master = s.master := rfl
@[simp] theorem State.setEventStep_busData (st : EventStep) : (s.setEventStep st).busData = s.busData := rfl
@[simp] theorem State.setEventStep_script (st : EventStep) : (s.setEventStep st).script = s.script := rfl
@[simp] theorem State.setEventStep_draws (st : EventStep) : (s.setEventStep st).draws = s.draws := rfl

/-! ### `State.setIrqStep` -/

@[simp] theorem State.setIrqStep_params (st : IrqStep) : (s.setIrqStep st).params = s.params := rfl
@[simp] theorem State.setIrqStep_cnt (st : IrqStep) : (s.setIrqStep st).cnt = s.cnt := rfl
@[simp] theorem State.setIrqStep_timer (st : IrqStep) : (s.setIrqStep st).timer = s.timer := rfl
@[simp] theorem State.setIrqStep_rst20 (st : IrqStep) : (s.setIrqStep st).rst20 = s.rst20 := rfl
@[simp] theorem State.setIrqStep_rst24 (st : IrqStep) : (s.setIrqStep st).rst24 = s.rst24 := rfl
@[simp] theorem State.setIrqStep_rst2C (st : IrqStep) : (s.setIrqStep st).rst2C = s.rst2C := rfl
@[simp] theorem State.setIrqStep_readers (st : IrqStep) : (s.setIrqStep st).readers = s.readers := rfl
@[simp] theorem State.setIrqStep_event (st : IrqStep) : (s.setIrqStep st).event = s.event := rfl
@[simp] theorem State.setIrqStep_irqh (st : IrqStep) : (s.setIrqStep st).irqh = { s.irqh with step := st } := rfl
@[simp] theorem State.setIrqStep_rst (st : IrqStep) : (s.setIrqStep st).rst = s.rst := rfl
@[simp] theorem State.setIrqStep_mapped (st : IrqStep) : (s.setIrqStep st).mapped = s.mapped := rfl
@[simp] theorem State.setIrqStep_handler (st : IrqStep) : (s.setIrqStep st).handler = s.handler := rfl
@[simp] theorem State.setIrqStep_regCe (st : IrqStep) : (s.setIrqStep st).regCe = s.regCe := rfl
@[simp] theorem State.setIrqStep_regCs (st : IrqStep) : (s.setIrqStep st).regCs = s.regCs := rfl
@[simp] theorem State.setIrqStep_irqReq (st : IrqStep) : (s.setIrqStep st).irqReq = s.irqReq := rfl
@[simp] theorem State.setIrqStep_hist (st : IrqStep) : (s.setIrqStep st).hist = s.hist := rfl
@[simp] theorem State.setIrqStep_faults (st : IrqStep) : (s.setIrqStep st).faults = s.faults := rfl
@[simp] theorem State.setIrqStep_refused (st : IrqStep) : (s.setIrqStep st).refused = s.refused := rfl
@[simp] theorem State.setIrqStep_lastRefusal (st : IrqStep) : (s.setIrqStep st).lastRefusal = s.lastRefusal := rfl
@[simp] theorem State.setIrqStep_boot (st : IrqStep) : (s.setIrqStep st).boot = s.boot := rfl
@[simp] theorem State.setIrqStep_issuer (st : IrqStep) : (s.setIrqStep st).issuer = s.issuer := rfl
@[simp] theorem State.setIrqStep_master (st : IrqStep) : (s.setIrqStep st).master = s.master := rfl
@[simp] theorem State.setIrqStep_busData (st : IrqStep) : (s.setIrqStep st).busData = s.busData := rfl
@[simp] theorem State.setIrqStep_script (st : IrqStep) : (s.setIrqStep st).script = s.script := rfl
@[simp] theorem State.setIrqStep_draws (st : IrqStep) : (s.setIrqStep st).draws = s.draws := rfl

/-! ### `State.callback` -/

@[simp] theorem State.callback_params (ops : List DWord) : (s.callback ops).params = s.params := rfl
@[simp] theorem State.callback_cnt (ops : List DWord) : (s.callback ops).cnt = s.cnt := rfl
@[simp] theorem State.callback_timer (ops : List DWord) : (s.callback ops).timer = s.timer := rfl
@[simp] theorem State.callback_rst20 (ops : List DWord) : (s.callback ops).rst20 = s.rst20 := rfl
@[simp] theorem State.callback_rst24 (ops : List DWord) : (s.callback ops).rst24 = s.rst24 := rfl
@[simp] theorem State.callback_rst2C (ops : List DWord) : (s.callback ops).rst2C = s.rst2C := rfl
@[simp] theorem State.callback_readers (ops : List DWord) : (s.callback ops).readers = s.readers := rfl
@[simp] theorem State.callback_event (ops : List DWord) : (s.callback ops).event = s.event := rfl
@[simp] theorem State.callback_irqh (ops : List DWord) : (s.callback ops).irqh = { s.irqh with pendingOps := ops, answered := true } := rfl
@[simp] theorem State.callback_rst (ops : List DWord) : (s.callback ops).rst = s.rst := rfl
@[simp] theorem State.callback_mapped (ops : List DWord) : (s.callback ops).mapped = s.mapped := rfl
@[simp] theorem State.callback_handler (ops : List DWord) : (s.callback ops).handler = s.handler := rfl
@[simp] theorem State.callback_regCe (ops : List DWord) : (s.callback ops).regCe = s.regCe := rfl
@[simp] theorem State.callback_regCs (ops : List DWord) : (s.callback ops).regCs = s.regCs := rfl
@[simp] theorem State.callback_irqReq (ops : List DWord) : (s.callback ops).irqReq = s.irqReq := rfl
@[simp] theorem State.callback_hist (ops : List DWord) : (s.callback ops).hist = s.hist ++ [.callback] := rfl
@[simp] theorem State.callback_faults (ops : List DWord) : (s.callback ops).faults = s.faults := rfl
@[simp] theorem State.callback_refused (ops : List DWord) : (s.callback ops).refused = s.refused := rfl
@[simp] theorem State.callback_lastRefusal (ops : List DWord) : (s.callback ops).lastRefusal = s.lastRefusal := rfl
@[simp] theorem State.callback_boot (ops : List DWord) : (s.callback ops).boot = s.boot := rfl
@[simp] theorem State.callback_issuer (ops : List DWord) : (s.callback ops).issuer = s.issuer := rfl
@[simp] theorem State.callback_master (ops : List DWord) : (s.callback ops).master = s.master := rfl
@[simp] theorem State.callback_busData (ops : List DWord) : (s.callback ops).busData = s.busData := rfl
@[simp] theorem State.callback_script (ops : List DWord) : (s.callback ops).script = s.script := rfl
@[simp] theorem State.callback_draws (ops : List DWord) : (s.callback ops).draws = s.draws := rfl

/-! ### `State.callbackDone` -/

@[simp] theorem State.callbackDone_params : s.callbackDone.params = s.params := rfl
@[simp] theorem State.callbackDone_cnt : s.callbackDone.cnt = s.cnt := rfl
@[simp] theorem State.callbackDone_timer : s.callbackDone.timer = s.timer := rfl
@[simp] theorem State.callbackDone_rst20 : s.callbackDone.rst20 = s.rst20 := rfl
@[simp] theorem State.callbackDone_rst24 : s.callbackDone.rst24 = s.rst24 := rfl
@[simp] theorem State.callbackDone_rst2C : s.callbackDone.rst2C = s.rst2C := rfl
@[simp] theorem State.callbackDone_readers : s.callbackDone.readers = s.readers := rfl
@[simp] theorem State.callbackDone_event : s.callbackDone.event = s.event := rfl
@[simp] theorem State.callbackDone_irqh : s.callbackDone.irqh = { s.irqh with step := .ret, answered := false } := rfl
@[simp] theorem State.callbackDone_rst : s.callbackDone.rst = s.rst := rfl
@[simp] theorem State.callbackDone_mapped : s.callbackDone.mapped = s.mapped := rfl
@[simp] theorem State.callbackDone_handler : s.callbackDone.handler = s.handler := rfl
@[simp] theorem State.callbackDone_regCe : s.callbackDone.regCe = s.regCe := rfl
@[simp] theorem State.callbackDone_regCs : s.callbackDone.regCs = s.regCs := rfl
@[simp] theorem State.callbackDone_irqReq : s.callbackDone.irqReq = s.irqReq := rfl
@[simp] theorem State.callbackDone_hist : s.callbackDone.hist = s.hist := rfl
@[simp] theorem State.callbackDone_faults : s.callbackDone.faults = s.faults := rfl
@[simp] theorem State.callbackDone_refused : s.callbackDone.refused = s.refused := rfl
@[simp] theorem State.callbackDone_lastRefusal : s.callbackDone.lastRefusal = s.lastRefusal := rfl
@[simp] theorem State.callbackDone_boot : s.callbackDone.boot = s.boot := rfl
@[simp] theorem State.callbackDone_issuer : s.callbackDone.issuer = s.issuer := rfl
@[simp] theorem State.callbackDone_master : s.callbackDone.master = s.master := rfl
@[simp] theorem State.callbackDone_busData : s.callbackDone.busData = s.busData := rfl
@[simp] theorem State.callbackDone_script : s.callbackDone.script = s.script := rfl
@[simp] theorem State.callbackDone_draws : s.callbackDone.draws = s.draws := rfl

/-! ### `State.takeOp` -/

@[simp] theorem State.takeOp_params (ops : List DWord) : (s.takeOp ops).params = s.params := rfl
@[simp] theorem State.takeOp_cnt (ops : List DWord) : (s.takeOp ops).cnt = s.cnt := rfl
@[simp] theorem State.takeOp_timer (ops : List DWord) : (s.takeOp ops).timer = s.timer := rfl
@[simp] theorem State.takeOp_rst20 (ops : List DWord) : (s.takeOp ops).rst20 = s.rst20 := rfl
@[simp] theorem State.takeOp_rst24 (ops : List DWord) : (s.takeOp ops).rst24 = s.rst24 := rfl
@[simp] theorem State.takeOp_rst2C (ops : List DWord) : (s.takeOp ops).rst2C = s.rst2C := rfl
@[simp] theorem State.takeOp_readers (ops : List DWord) : (s.takeOp ops).readers = s.readers := rfl
@[simp] theorem State.takeOp_event (ops : List DWord) : (s.takeOp ops).event = s.event := rfl
@[simp] theorem State.takeOp_irqh (ops : List DWord) : (s.takeOp ops).irqh = { s.irqh with pendingOps := ops } := rfl
@[simp] theorem State.takeOp_rst (ops : List DWord) : (s.takeOp ops).rst = s.rst := rfl
@[simp] theorem State.takeOp_mapped (ops : List DWord) : (s.takeOp ops).mapped = s.mapped := rfl
@[simp] theorem State.takeOp_handler (ops : List DWord) : (s.takeOp ops).handler = s.handler := rfl
@[simp] theorem State.takeOp_regCe (ops : List DWord) : (s.takeOp ops).regCe = s.regCe := rfl
@[simp] theorem State.takeOp_regCs (ops : List DWord) : (s.takeOp ops).regCs = s.regCs := rfl
@[simp] theorem State.takeOp_irqReq (ops : List DWord) : (s.takeOp ops).irqReq = s.irqReq := rfl
@[simp] theorem State.takeOp_hist (ops : List DWord) : (s.takeOp ops).hist = s.hist := rfl
@[simp] theorem State.takeOp_faults (ops : List DWord) : (s.takeOp ops).faults = s.faults := rfl
@[simp] theorem State.takeOp_refused (ops : List DWord) : (s.takeOp ops).refused = s.refused := rfl
@[simp] theorem State.takeOp_lastRefusal (ops : List DWord) : (s.takeOp ops).lastRefusal = s.lastRefusal := rfl
@[simp] theorem State.takeOp_boot (ops : List DWord) : (s.takeOp ops).boot = s.boot := rfl
@[simp] theorem State.takeOp_issuer (ops : List DWord) : (s.takeOp ops).issuer = .irqh := rfl
@[simp] theorem State.takeOp_master (ops : List DWord) : (s.takeOp ops).master = s.master := rfl
@[simp] theorem State.takeOp_busData (ops : List DWord) : (s.takeOp ops).busData = s.busData := rfl
@[simp] theorem State.takeOp_script (ops : List DWord) : (s.takeOp ops).script = s.script := rfl
@[simp] theorem State.takeOp_draws (ops : List DWord) : (s.takeOp ops).draws = s.draws := rfl

/-! ### `State.rstAfter` -/

@[simp] theorem State.rstAfter_params : s.rstAfter.params = s.params := rfl
@[simp] theorem State.rstAfter_cnt : s.rstAfter.cnt = s.cnt := rfl
@[simp] theorem State.rstAfter_timer : s.rstAfter.timer = s.timer := rfl
@[simp] theorem State.rstAfter_rst20 : s.rstAfter.rst20 = s.rst20 := rfl
@[simp] theorem State.rstAfter_rst24 : s.rstAfter.rst24 = s.rst24 := rfl
@[simp] theorem State.rstAfter_rst2C : s.rstAfter.rst2C = s.rst2C := rfl
@[simp] theorem State.rstAfter_readers : s.rstAfter.readers = s.readers := rfl
@[simp] theorem State.rstAfter_event : s.rstAfter.event = s.event := rfl
@[simp] theorem State.rstAfter_irqh : s.rstAfter.irqh = s.irqh := rfl
@[simp] theorem State.rstAfter_rst : s.rstAfter.rst = s.rst.after := rfl
@[simp] theorem State.rstAfter_mapped : s.rstAfter.mapped = s.mapped := rfl
@[simp] theorem State.rstAfter_handler : s.rstAfter.handler = s.handler := rfl
@[simp] theorem State.rstAfter_regCe : s.rstAfter.regCe = s.regCe := rfl
@[simp] theorem State.rstAfter_regCs : s.rstAfter.regCs = s.regCs := rfl
@[simp] theorem State.rstAfter_irqReq : s.rstAfter.irqReq = s.irqReq := rfl
@[simp] theorem State.rstAfter_hist : s.rstAfter.hist = s.hist := rfl
@[simp] theorem State.rstAfter_faults : s.rstAfter.faults = s.faults := rfl
@[simp] theorem State.rstAfter_refused : s.rstAfter.refused = s.refused := rfl
@[simp] theorem State.rstAfter_lastRefusal : s.rstAfter.lastRefusal = s.lastRefusal := rfl
@[simp] theorem State.rstAfter_boot : s.rstAfter.boot = s.boot := rfl
@[simp] theorem State.rstAfter_issuer : s.rstAfter.issuer = s.issuer := rfl
@[simp] theorem State.rstAfter_master : s.rstAfter.master = s.master := rfl
@[simp] theorem State.rstAfter_busData : s.rstAfter.busData = s.busData := rfl
@[simp] theorem State.rstAfter_script : s.rstAfter.script = s.script := rfl
@[simp] theorem State.rstAfter_draws : s.rstAfter.draws = s.draws := rfl

/-! ### `State.systemReset` -/

@[simp] theorem State.systemReset_params : s.systemReset.params = s.params := rfl
@[simp] theorem State.systemReset_cnt : s.systemReset.cnt = Config.freeCnt s.draws := rfl
@[simp] theorem State.systemReset_rst20 : s.systemReset.rst20 = Config.freeWord (s.draws + 3) := rfl
@[simp] theorem State.systemReset_rst24 : s.systemReset.rst24 = Config.freeWord (s.draws + 4) := rfl
@[simp] theorem State.systemReset_rst2C : s.systemReset.rst2C = Config.freeWord (s.draws + 5) := rfl
@[simp] theorem State.systemReset_readers : s.systemReset.readers = s.readers.map Reader.toIdle := rfl
@[simp] theorem State.systemReset_event : s.systemReset.event = { s.event with step := .idle } := rfl
@[simp] theorem State.systemReset_irqh : s.systemReset.irqh = { step := .idle, active := false, pendingOps := [], answered := false, wait := none } := rfl
@[simp] theorem State.systemReset_rst : s.systemReset.rst = .idle := rfl
@[simp] theorem State.systemReset_mapped : s.systemReset.mapped = false := rfl
@[simp] theorem State.systemReset_handler : s.systemReset.handler = none := rfl
@[simp] theorem State.systemReset_regCe : s.systemReset.regCe = false := rfl
@[simp] theorem State.systemReset_regCs : s.systemReset.regCs = false := rfl
@[simp] theorem State.systemReset_irqReq : s.systemReset.irqReq = false := rfl
@[simp] theorem State.systemReset_hist : s.systemReset.hist = s.hist ++ [.sysreset] := rfl
@[simp] theorem State.systemReset_faults : s.systemReset.faults = s.faults := rfl
@[simp] theorem State.systemReset_refused : s.systemReset.refused = s.refused := rfl
@[simp] theorem State.systemReset_lastRefusal : s.systemReset.lastRefusal = s.lastRefusal := rfl
@[simp] theorem State.systemReset_boot : s.systemReset.boot = .idle := rfl
@[simp] theorem State.systemReset_issuer : s.systemReset.issuer = s.issuer := rfl
@[simp] theorem State.systemReset_master : s.systemReset.master = s.master := rfl
@[simp] theorem State.systemReset_busData : s.systemReset.busData = s.busData := rfl
@[simp] theorem State.systemReset_script : s.systemReset.script = s.script := rfl
@[simp] theorem State.systemReset_draws : s.systemReset.draws = s.draws + 6 := rfl
@[simp] theorem State.systemReset_timer :
    s.systemReset.timer =
      { load := Config.freeWord s.draws, ctrl := Config.freeWord (s.draws + 1), cur := Config.freeWord (s.draws + 2)
        en := Config.freeBit s.draws, pend := Config.freeBit (s.draws + 1) } := rfl

/-! ### `State.awaited`: only IRQH's wait can change -/

@[simp] theorem State.awaited_params (a : Agent) : (s.awaited a).params = s.params := rfl
@[simp] theorem State.awaited_cnt (a : Agent) : (s.awaited a).cnt = s.cnt := rfl
@[simp] theorem State.awaited_timer (a : Agent) : (s.awaited a).timer = s.timer := rfl
@[simp] theorem State.awaited_rst20 (a : Agent) : (s.awaited a).rst20 = s.rst20 := rfl
@[simp] theorem State.awaited_rst24 (a : Agent) : (s.awaited a).rst24 = s.rst24 := rfl
@[simp] theorem State.awaited_rst2C (a : Agent) : (s.awaited a).rst2C = s.rst2C := rfl
@[simp] theorem State.awaited_readers (a : Agent) : (s.awaited a).readers = s.readers := rfl
@[simp] theorem State.awaited_event (a : Agent) : (s.awaited a).event = s.event := rfl
@[simp] theorem State.awaited_rst (a : Agent) : (s.awaited a).rst = s.rst := rfl
@[simp] theorem State.awaited_mapped (a : Agent) : (s.awaited a).mapped = s.mapped := rfl
@[simp] theorem State.awaited_handler (a : Agent) : (s.awaited a).handler = s.handler := rfl
@[simp] theorem State.awaited_regCe (a : Agent) : (s.awaited a).regCe = s.regCe := rfl
@[simp] theorem State.awaited_regCs (a : Agent) : (s.awaited a).regCs = s.regCs := rfl
@[simp] theorem State.awaited_irqReq (a : Agent) : (s.awaited a).irqReq = s.irqReq := rfl
@[simp] theorem State.awaited_hist (a : Agent) : (s.awaited a).hist = s.hist := rfl
@[simp] theorem State.awaited_faults (a : Agent) : (s.awaited a).faults = s.faults := rfl
@[simp] theorem State.awaited_refused (a : Agent) : (s.awaited a).refused = s.refused := rfl
@[simp] theorem State.awaited_lastRefusal (a : Agent) : (s.awaited a).lastRefusal = s.lastRefusal := rfl
@[simp] theorem State.awaited_boot (a : Agent) : (s.awaited a).boot = s.boot := rfl
@[simp] theorem State.awaited_issuer (a : Agent) : (s.awaited a).issuer = s.issuer := rfl
@[simp] theorem State.awaited_master (a : Agent) : (s.awaited a).master = s.master := rfl
@[simp] theorem State.awaited_busData (a : Agent) : (s.awaited a).busData = s.busData := rfl
@[simp] theorem State.awaited_script (a : Agent) : (s.awaited a).script = s.script := rfl
@[simp] theorem State.awaited_draws (a : Agent) : (s.awaited a).draws = s.draws := rfl
@[simp] theorem State.awaited_irqh (a : Agent) :
    (s.awaited a).irqh =
      { s.irqh with wait := if s.issuer = .irqh then some a else s.irqh.wait } := rfl

/-! ### `State.startReader` -/

@[simp] theorem State.startReader_params : s.startReader.params = s.params := rfl
@[simp] theorem State.startReader_cnt : s.startReader.cnt = s.cnt := rfl
@[simp] theorem State.startReader_timer : s.startReader.timer = s.timer := rfl
@[simp] theorem State.startReader_rst20 : s.startReader.rst20 = s.rst20 := rfl
@[simp] theorem State.startReader_rst24 : s.startReader.rst24 = s.rst24 := rfl
@[simp] theorem State.startReader_rst2C : s.startReader.rst2C = s.rst2C := rfl
@[simp] theorem State.startReader_readers : s.startReader.readers = s.readers ++ [Reader.fresh] := rfl
@[simp] theorem State.startReader_event : s.startReader.event = s.event := rfl
@[simp] theorem State.startReader_rst : s.startReader.rst = s.rst := rfl
@[simp] theorem State.startReader_mapped : s.startReader.mapped = s.mapped := rfl
@[simp] theorem State.startReader_handler : s.startReader.handler = s.handler := rfl
@[simp] theorem State.startReader_regCe : s.startReader.regCe = s.regCe := rfl
@[simp] theorem State.startReader_regCs : s.startReader.regCs = s.regCs := rfl
@[simp] theorem State.startReader_irqReq : s.startReader.irqReq = s.irqReq := rfl
@[simp] theorem State.startReader_hist : s.startReader.hist = s.hist := rfl
@[simp] theorem State.startReader_faults : s.startReader.faults = s.faults := rfl
@[simp] theorem State.startReader_refused : s.startReader.refused = s.refused := rfl
@[simp] theorem State.startReader_lastRefusal : s.startReader.lastRefusal = s.lastRefusal := rfl
@[simp] theorem State.startReader_boot : s.startReader.boot = s.boot := rfl
@[simp] theorem State.startReader_issuer : s.startReader.issuer = s.issuer := rfl
@[simp] theorem State.startReader_master : s.startReader.master = s.master := rfl
@[simp] theorem State.startReader_busData : s.startReader.busData = s.busData := rfl
@[simp] theorem State.startReader_script : s.startReader.script = s.script := rfl
@[simp] theorem State.startReader_draws : s.startReader.draws = s.draws := rfl
@[simp] theorem State.startReader_irqh :
    s.startReader.irqh = { s.irqh with wait := if s.issuer = .irqh then some (.reader s.readers.length) else s.irqh.wait } := rfl

/-! ### `State.startEvent` -/

@[simp] theorem State.startEvent_params (st : EventStep) (d : Word) : (s.startEvent st d).params = s.params := rfl
@[simp] theorem State.startEvent_cnt (st : EventStep) (d : Word) : (s.startEvent st d).cnt = s.cnt := rfl
@[simp] theorem State.startEvent_timer (st : EventStep) (d : Word) : (s.startEvent st d).timer = s.timer := rfl
@[simp] theorem State.startEvent_rst20 (st : EventStep) (d : Word) : (s.startEvent st d).rst20 = s.rst20 := rfl
@[simp] theorem State.startEvent_rst24 (st : EventStep) (d : Word) : (s.startEvent st d).rst24 = s.rst24 := rfl
@[simp] theorem State.startEvent_rst2C (st : EventStep) (d : Word) : (s.startEvent st d).rst2C = s.rst2C := rfl
@[simp] theorem State.startEvent_readers (st : EventStep) (d : Word) : (s.startEvent st d).readers = s.readers := rfl
@[simp] theorem State.startEvent_event (st : EventStep) (d : Word) : (s.startEvent st d).event = { step := st, delta := d, issuer := s.issuer } := rfl
@[simp] theorem State.startEvent_rst (st : EventStep) (d : Word) : (s.startEvent st d).rst = s.rst := rfl
@[simp] theorem State.startEvent_mapped (st : EventStep) (d : Word) : (s.startEvent st d).mapped = s.mapped := rfl
@[simp] theorem State.startEvent_handler (st : EventStep) (d : Word) : (s.startEvent st d).handler = s.handler := rfl
@[simp] theorem State.startEvent_regCe (st : EventStep) (d : Word) : (s.startEvent st d).regCe = s.regCe := rfl
@[simp] theorem State.startEvent_regCs (st : EventStep) (d : Word) : (s.startEvent st d).regCs = s.regCs := rfl
@[simp] theorem State.startEvent_irqReq (st : EventStep) (d : Word) : (s.startEvent st d).irqReq = s.irqReq := rfl
@[simp] theorem State.startEvent_hist (st : EventStep) (d : Word) : (s.startEvent st d).hist = s.hist := rfl
@[simp] theorem State.startEvent_faults (st : EventStep) (d : Word) : (s.startEvent st d).faults = s.faults := rfl
@[simp] theorem State.startEvent_refused (st : EventStep) (d : Word) : (s.startEvent st d).refused = s.refused := rfl
@[simp] theorem State.startEvent_lastRefusal (st : EventStep) (d : Word) : (s.startEvent st d).lastRefusal = s.lastRefusal := rfl
@[simp] theorem State.startEvent_boot (st : EventStep) (d : Word) : (s.startEvent st d).boot = s.boot := rfl
@[simp] theorem State.startEvent_issuer (st : EventStep) (d : Word) : (s.startEvent st d).issuer = s.issuer := rfl
@[simp] theorem State.startEvent_master (st : EventStep) (d : Word) : (s.startEvent st d).master = s.master := rfl
@[simp] theorem State.startEvent_busData (st : EventStep) (d : Word) : (s.startEvent st d).busData = s.busData := rfl
@[simp] theorem State.startEvent_script (st : EventStep) (d : Word) : (s.startEvent st d).script = s.script := rfl
@[simp] theorem State.startEvent_draws (st : EventStep) (d : Word) : (s.startEvent st d).draws = s.draws := rfl
@[simp] theorem State.startEvent_irqh (st : EventStep) (d : Word) :
    (s.startEvent st d).irqh = { s.irqh with wait := if s.issuer = .irqh then some .event else s.irqh.wait } := rfl

end Sys2Proof.Machine
end

