-- ==== Sys2Proof/Laws/Ops.lean ====
section
/-!
SUPPORT. What each shared operation and each meaning can do, said once: the bus operations, the seven transactions, the
five commands as they are issued, and the sequences' next steps.
-/
namespace Sys2Proof.Machine

variable {s t : State}

/-! ## The bus -/

theorem busCheck_eq_none {r : Reg} : busCheck r s = none ↔ permitted r s.master = true ∧ s.mapped = true := by
  unfold busCheck
  cases permitted r s.master <;> cases s.mapped <;> simp

theorem busRead_of_admitted {r : Reg} (hp : permitted r s.master = true) (hm : s.mapped = true) :
    busRead r s =
      .next { s with
        hist := s.hist ++ [.bus s.master .read (regOffset s.params r) (s.regValue r)], busData := s.regValue r } := by
  simp [busRead, busCheck_eq_none.2 ⟨hp, hm⟩, State.record]

theorem busWrite_of_admitted {r : Reg} {v : Word} {eff : State → State} (hp : permitted r s.master = true)
    (hm : s.mapped = true) :
    busWrite r v eff s = .next (eff (s.record (.bus s.master .write (regOffset s.params r) v))) := by
  simp [busWrite, busCheck_eq_none.2 ⟨hp, hm⟩]

/-- What a write of a register does to the block, besides the history. -/
def storeEffect (i : Instr) (u : State) : State :=
  match i with
  | .wrLoad v => { u with timer := writeLoad u.params v u.timer }
  | .wrCtrl v => { u with timer := writeCtrl u.params v u.timer }
  | .wrRst20 v => { u with rst20 := v }
  | .wrRst24 v => { u with rst24 := v }
  | .wrRst2C v => { u with rst2C := v }
  | .read64 => u
  | .arm _ => u
  | .disable => u
  | .reset => u
  | .irqEntry => u
  | .rdCntLo _ => u
  | .rdCntHi _ => u

/-- The value a write carries. -/
def storeData : Instr → Word
  | .wrLoad v => v
  | .wrCtrl v => v
  | .wrRst20 v => v
  | .wrRst24 v => v
  | .wrRst2C v => v
  | .read64 => 0#32
  | .arm _ => 0#32
  | .disable => 0#32
  | .reset => 0#32
  | .irqEntry => 0#32
  | .rdCntLo _ => 0#32
  | .rdCntHi _ => 0#32

/-- Everything a bus transaction can do to the state. -/
inductive BusEffect (i : Instr) (s t : State) : Prop where
  /-- It is refused: only the marks change. -/
  | refused (e : Reason) (notAdmitted : busAdmitted i s = false) (eq : t = s.refuse e)
  /-- A register is read. -/
  | read (r : Reg) (reg : busReg i = some r) (dir : regDir r = .read) (admitted : busAdmitted i s = true)
      (eq : t = { s with
        hist := s.hist ++ [.bus s.master .read (regOffset s.params r) (s.regValue r)], busData := s.regValue r })
  /-- A register is written. -/
  | write (r : Reg) (reg : busReg i = some r) (dir : regDir r = .write) (admitted : busAdmitted i s = true)
      (eq : t = storeEffect i (s.record (.bus s.master .write (regOffset s.params r) (storeData i))))

theorem busAdmitted_iff {i : Instr} :
    busAdmitted i s = true ↔
      ∃ r, busReg i = some r ∧ permitted r s.master = true ∧ s.mapped = true ∧ i.wf s.params = true := by
  unfold busAdmitted
  cases busReg i with
  | none => simp
  | some r => simp [Option.isNone_iff_eq_none, busCheck_eq_none, and_assoc]

/-- A bus transaction always answers a next state (R88: a refusal is recorded). -/
theorem exec_bus_next {i : Instr} (hi : i.format = .bus) : ∃ t, exec i s = .next t ∧ BusEffect i s t := by
  cases i <;> first | (cases hi; done) | skip
  all_goals simp only [exec, execRdCntLo, execRdCntHi, execWrLoad, execWrCtrl, execWrRst20, execWrRst24, execWrRst2C]
  case wrCtrl v =>
    by_cases hv : s.params.ctrlValues.contains v = false
    · rw [if_pos hv]
      exact ⟨_, rfl, .refused .reservedCtrlValue (by simp only [busAdmitted, busReg, Instr.wf, hv, Bool.and_false]) rfl⟩
    · rw [if_neg hv]
      unfold busWrite
      cases hc : busCheck .ctrl s with
      | some e => exact ⟨_, rfl, .refused e (by simp [busAdmitted, busReg, hc]) rfl⟩
      | none =>
        refine ⟨_, rfl, .write .ctrl rfl rfl ?_ rfl⟩
        simp only [busAdmitted, busReg, hc, Instr.wf]
        simpa using hv
  case rdCntLo v =>
    unfold busRead
    cases hc : busCheck .cntLo s with
    | some e => exact ⟨_, rfl, .refused e (by simp [busAdmitted, busReg, hc]) rfl⟩
    | none => exact ⟨_, rfl, .read .cntLo rfl rfl (by simp [busAdmitted, busReg, hc, Instr.wf]) rfl⟩
  case rdCntHi v =>
    unfold busRead
    cases hc : busCheck .cntHi s with
    | some e => exact ⟨_, rfl, .refused e (by simp [busAdmitted, busReg, hc]) rfl⟩
    | none => exact ⟨_, rfl, .read .cntHi rfl rfl (by simp [busAdmitted, busReg, hc, Instr.wf]) rfl⟩
  case wrLoad v =>
    unfold busWrite
    cases hc : busCheck .load s with
    | some e => exact ⟨_, rfl, .refused e (by simp [busAdmitted, busReg, hc]) rfl⟩
    | none => exact ⟨_, rfl, .write .load rfl rfl (by simp [busAdmitted, busReg, hc, Instr.wf]) rfl⟩
  case wrRst20 v =>
    unfold busWrite
    cases hc : busCheck .rst20 s with
    | some e => exact ⟨_, rfl, .refused e (by simp [busAdmitted, busReg, hc]) rfl⟩
    | none => exact ⟨_, rfl, .write .rst20 rfl rfl (by simp [busAdmitted, busReg, hc, Instr.wf]) rfl⟩
  case wrRst24 v =>
    unfold busWrite
    cases hc : busCheck .rst24 s with
    | some e => exact ⟨_, rfl, .refused e (by simp [busAdmitted, busReg, hc]) rfl⟩
    | none => exact ⟨_, rfl, .write .rst24 rfl rfl (by simp [busAdmitted, busReg, hc, Instr.wf]) rfl⟩
  case wrRst2C v =>
    unfold busWrite
    cases hc : busCheck .rst2C s with
    | some e => exact ⟨_, rfl, .refused e (by simp [busAdmitted, busReg, hc]) rfl⟩
    | none => exact ⟨_, rfl, .write .rst2C rfl rfl (by simp [busAdmitted, busReg, hc, Instr.wf]) rfl⟩

theorem exec_bus_effect {i : Instr} (hi : i.format = .bus) (h : exec i s = .next t) : BusEffect i s t := by
  obtain ⟨u, hu, e⟩ := exec_bus_next (s := s) hi
  rw [hu] at h
  cases h
  exact e

/-- HOST may access no register (R53). -/
theorem permitted_host (r : Reg) : permitted r .host = false := by cases r <;> rfl

/-- What refuses a transaction from outside the sequences: R84's check of its value, or R53's of its agent. -/
def outsideReason (i : Instr) (p : Params) : Reason := if i.wf p then .notOwner else .reservedCtrlValue

/-- A bus transaction with HOST as its master is refused. -/
theorem exec_bus_host {i : Instr} (hi : i.format = .bus) :
    exec i { s with master := .host } = .next ({ s with master := .host }.refuse (outsideReason i s.params)) := by
  have hc : ∀ r, busCheck r { s with master := .host } = some .notOwner := fun r => by simp [busCheck, permitted_host]
  cases i <;> first | (cases hi; done) | skip
  case wrCtrl v =>
    have hw : (Instr.wrCtrl v).wf s.params = s.params.ctrlValues.contains v := rfl
    simp only [exec, execWrCtrl]
    by_cases hv : s.params.ctrlValues.contains v = false
    · rw [if_pos hv, outsideReason, hw, hv]
      rfl
    · rw [if_neg hv, outsideReason, hw, (Bool.not_eq_false _).mp hv]
      simp only [busWrite, hc, if_true]
  all_goals simp [exec, execRdCntLo, execRdCntHi, execWrLoad, execWrRst20, execWrRst24, execWrRst2C, busRead, busWrite, hc,
    outsideReason, Instr.wf]

/-! ## The commands, as they are issued -/

/-- Everything issuing a command can do to the state. -/
inductive IssueEffect (i : Instr) (s t : State) : Prop where
  | refused (e : Reason) (eq : t = s.refuse e)
  | raced (mapped : s.mapped = true) (busy : s.eventBusy = true) (eq : t = s.raiseFault .eventPathRace)
  | armUnavailable (d : Word) (instr : i = .arm d) (unmapped : s.mapped = false) (eq : t = s.ret .event .errUnavailable)
  | resetUnmapped (instr : i = .reset) (unmapped : s.mapped = false) (eq : t = s.ret .rst .unit)
  | read64 (instr : i = .read64) (mapped : s.mapped = true) (eq : t = s.startReader)
  | arm (d : Word) (instr : i = .arm d) (mapped : s.mapped = true) (nonzero : d ≠ 0#32) (free : s.eventBusy = false)
      (eq : t = s.startEvent .a1 d)
  | disable (instr : i = .disable) (mapped : s.mapped = true) (free : s.eventBusy = false)
      (eq : t = s.startEvent .d1 s.event.delta)
  | reset (instr : i = .reset) (host : s.issuer = .host) (mapped : s.mapped = true) (idle : s.rst = .idle)
      (eq : t = { s with rst := .s1 })
  | irqEntry (instr : i = .irqEntry) (line : s.issuer = .irqh) (notCb : s.irqh.step ≠ .cb)
      (enabled : s.irqEnabled = true) (mapped : s.mapped = true) (handler : s.handler ≠ none)
      (eq : t = s.takeInterrupt)

theorem exec_cmd_effect {i : Instr} (hi : i.format = .cmd) (h : exec i s = .next t) : IssueEffect i s t := by
  cases i <;> first | (cases hi; done) | skip
  all_goals simp only [exec] at h
  case read64 =>
    unfold execRead64 at h
    split at h <;> cases h
    · exact .refused _ rfl
    · exact .read64 rfl (by simpa using ‹¬ s.mapped = false›) rfl
  case arm d =>
    unfold execArm at h
    split at h
    · cases h
      exact .armUnavailable d rfl ‹_› rfl
    · have hm : s.mapped = true := by simpa using ‹¬ s.mapped = false›
      split at h
      · cases h
        exact .refused _ rfl
      · split at h <;> cases h
        · exact .raced hm ‹_› rfl
        · exact .arm d rfl hm ‹_› (by simpa using ‹¬ s.eventBusy = true›) rfl
  case disable =>
    unfold execDisable at h
    split at h
    · cases h
      exact .refused _ rfl
    · have hm : s.mapped = true := by simpa using ‹¬ s.mapped = false›
      split at h <;> cases h
      · exact .raced hm ‹_› rfl
      · exact .disable rfl hm (by simpa using ‹¬ s.eventBusy = true›) rfl
  case reset =>
    unfold execReset at h
    split at h
    · cases h
      exact .refused _ rfl
    · split at h
      · cases h
        exact .resetUnmapped rfl ‹_› rfl
      · split at h <;> cases h
        · exact .refused _ rfl
        · exact .reset rfl ‹_› (by simpa using ‹¬ s.mapped = false›) (Classical.not_not.1 ‹_›) rfl
  case irqEntry =>
    unfold execIrqEntry at h
    split at h
    · cases h
      exact .refused _ rfl
    · split at h
      · cases h
        exact .refused _ rfl
      · split at h
        · cases h
        · split at h
          · cases h
            exact .refused _ rfl
          · split at h <;> cases h
            · exact .refused _ rfl
            · exact .irqEntry rfl ‹_› ‹_› (by simpa using ‹¬ s.irqEnabled = false›) (by simpa using ‹¬ s.mapped = false›)
                ‹_› rfl

/-- The command decoder gives commands only (R67). -/
theorem decodeCmd_format {w : DWord} {i : Instr} (h : decodeCmd w = .ok i) : i.format = .cmd := by
  simp only [decodeCmd] at h
  repeat' split at h
  all_goals first | (cases h; rfl) | cases h

/-- The record decoder gives transactions only (R70). -/
theorem transactionAt_format {p : Params} {d : Dir} {off : Nat} {v : Word} {i : Instr}
    (h : transactionAt p d off v = .ok i) : i.format = .bus := by
  unfold transactionAt at h
  repeat' split at h
  all_goals cases h
  next r _ _ => cases r <;> rfl

theorem decodeBus_format {p : Params} {w : DWord} {i : Instr} (h : decodeBus p w = .ok i) : i.format = .bus := by
  unfold decodeBus at h
  split at h
  · cases h
  · exact transactionAt_format h

theorem accessInstr_format {p : Params} {d : Dir} {addr bytes : Nat} {v : Word} {i : Instr}
    (h : accessInstr p d addr bytes v = .ok i) : i.format = .bus := by
  unfold accessInstr at h
  repeat' split at h
  all_goals first | cases h | exact transactionAt_format h

/-! ## The sequences -/

/-- A READER's sequence touches its entry, the history and IRQH's wait (R97). -/
theorem readerAfter_eq {k : Nat} {r : Reader} (h : s.readers[k]? = some r) :
    s.readerAfter k =
      if (r.advance s.busData).step = .done then
        (s.setReader k (r.advance s.busData)).ret (.reader k) (.value (r.advance s.busData).result)
      else s.setReader k (r.advance s.busData) := by
  simp [State.readerAfter, State.reader?, h]

/-- A READER has returned when its step is DONE (R97). -/
theorem readerDone_iff {k : Nat} : s.readerDone k = true ↔ ∃ r, s.readers[k]? = some r ∧ r.step = .done := by
  simp [State.readerDone, State.reader?, Option.any_eq_true]

/-- A READER's end touches its entry only (R33). -/
theorem retireReader_eq {k : Nat} {r : Reader} (h : s.readers[k]? = some r) :
    s.retireReader k = s.setReader k r.toIdle := by
  simp [State.retireReader, State.reader?, h]

@[simp] theorem Reader.toIdle_step (r : Reader) : r.toIdle.step = .idle := rfl

/-- The transaction a sequence names is a bus transaction (R80). -/
theorem seqInstr_format {a : Agent} {i : Instr} (h : seqInstr a s = some i) : i.format = .bus := by
  cases a <;> simp only [seqInstr] at h <;> try contradiction
  case reader k =>
    cases hk : s.reader? k with
    | none => simp [hk] at h
    | some r =>
      simp only [hk, Option.bind_some, Reader.nextInstr] at h
      cases hs : r.step <;> simp [hs] at h <;> subst h <;> rfl
  case event =>
    unfold eventInstr at h
    cases hs : s.event.step <;> simp [hs] at h <;> subst h <;> rfl
  case irqh =>
    unfold irqhInstr at h
    cases hs : s.irqh.step <;> simp [hs] at h <;> subst h <;> rfl
  case rst =>
    unfold rstInstr at h
    cases hs : s.rst <;> simp [hs] at h <;> subst h <;> rfl

/-- An agent's bus step: its transaction's effect, then its sequence advances when the transaction was admitted. -/
theorem agentStep_next {a : Agent} {i : Instr} (hi : seqInstr a s = some i) :
    ∃ u, exec i { s with master := a } = .next u ∧ BusEffect i { s with master := a } u ∧
      agentStep a s = .next (if busAdmitted i { s with master := a } then seqAfter a u else u) := by
  obtain ⟨u, hu, e⟩ := exec_bus_next (s := { s with master := a }) (seqInstr_format hi)
  exact ⟨u, hu, e, by simp [agentStep, hi, transact, hu]⟩

theorem agentStep_cases {a : Agent} (h : agentStep a s = .next t) :
    ∃ i u, seqInstr a s = some i ∧ BusEffect i { s with master := a } u ∧
      t = (if busAdmitted i { s with master := a } then seqAfter a u else u) := by
  cases hi : seqInstr a s with
  | none => simp [agentStep, hi] at h
  | some i =>
    obtain ⟨u, _, e, he⟩ := agentStep_next hi
    rw [he] at h
    cases h
    exact ⟨i, u, rfl, e, rfl⟩

end Sys2Proof.Machine
end

