-- ==== Sys2Proof/Laws/Step.lean ====
section
/-!
SUPPORT. What a move can do, and what a step can do, said once.
-/
namespace Sys2Proof.Machine

variable {s t : State}

/-- Everything a move can do to the state. -/
inductive MoveEffect (m : Move) (s t : State) : Prop where
  | tick (move : m = .tick) (eq : t = s.tick)
  /-- A command is issued by HOST or taken by the interrupt controller. -/
  | issue (i : Instr) (who : Issuer) (cmd : i.format = .cmd) (src : who = .host ∨ (m = .irq ∧ i = .irqEntry ∧ s.irqEnabled = true))
      (eff : IssueEffect i { s with issuer := who } t)
  /-- BOOT issues its DISABLE. -/
  | bootDisable (h : Nat) (at3 : s.boot = .disable h)
      (eff : IssueEffect .disable { s with boot := .registerCe h, issuer := .host } t)
  /-- IRQH issues the next operation of the callback's answer. -/
  | callbackOp (i : Instr) (w : DWord) (ws : List DWord) (cmd : i.format = .cmd) (move : m = .irqh) (cb : s.irqh.step = .cb)
      (answered : s.irqh.answered = true) (free : s.irqh.wait = none) (ops : s.irqh.pendingOps = w :: ws)
      (eff : IssueEffect i (s.takeOp ws) t)
  | callbackBadWord (w : DWord) (ws : List DWord) (e : Reason) (move : m = .irqh) (cb : s.irqh.step = .cb)
      (answered : s.irqh.answered = true) (free : s.irqh.wait = none) (ops : s.irqh.pendingOps = w :: ws)
      (eq : t = (s.takeOp ws).refuse e)
  | refused (e : Reason) (eq : t = s.refuse e)
  | bootStart (h : Nat) (unmapped : s.mapped = false) (eq : t = { s with mapped := true, boot := .disable h })
  | bootAborted (unmapped : s.mapped = false) (eq : t = s)
  | bootCe (h : Nat) (at4 : s.boot = .registerCe h)
      (eq : t = { s with regCe := true, handler := some h, boot := .registerIrq })
  | bootIrq (at5 : s.boot = .registerIrq) (eq : t = { s with irqReq := true, boot := .registerCs })
  | bootCs (at6 : s.boot = .registerCs) (eq : t = { s with regCs := true, boot := .expose })
  | bootDone (at7 : s.boot = .expose) (eq : t = { s with boot := .idle })
  /-- A sequencer's bus step. -/
  | sequenced (a : Agent) (i : Instr) (u : State) (move : (∃ k, m = .reader k ∧ a = .reader k) ∨ (m = .event ∧ a = .event) ∨
      (m = .irqh ∧ a = .irqh ∧ (s.irqh.step = .h1 ∨ s.irqh.step = .h2)) ∨ (m = .rst ∧ a = .rst)) (next : seqInstr a s = some i)
      (eff : BusEffect i { s with master := a } u)
      (eq : t = if busAdmitted i { s with master := a } then seqAfter a u else u)
  /-- A READER that has returned ends. -/
  | retired (k : Nat) (r : Reader) (move : m = .reader k) (reader : s.readers[k]? = some r) (done : r.step = .done)
      (eq : t = s.setReader k r.toIdle)
  /-- A transaction from outside the sequences is refused. -/
  | presented (e : Reason) (own : ownMove m = false) (eq : t = { s with master := .host }.refuse e)
  | callback (ops : List DWord) (move : m = .answer ops) (cb : s.irqh.step = .cb) (first : s.irqh.answered = false)
      (eq : t = s.callback ops)
  | callbackDone (move : m = .irqh) (cb : s.irqh.step = .cb) (answered : s.irqh.answered = true) (free : s.irqh.wait = none)
      (ops : s.irqh.pendingOps = []) (eq : t = s.callbackDone)
  | returned (move : m = .irqh) (ret : s.irqh.step = .ret) (eq : t = s.returnFromInterrupt)
  | sysreset (move : m = .sysreset) (halted : s.rst = .halted) (eq : t = s.systemReset)

theorem hostIssue_effect {w : DWord} (h : hostIssue w s = .next t) : MoveEffect (.host w) s t := by
  unfold hostIssue at h
  cases hd : decodeCmd w with
  | ok i =>
    rw [hd] at h
    exact .issue i .host (decodeCmd_format hd) (.inl rfl) (exec_cmd_effect (decodeCmd_format hd) h)
  | error e =>
    rw [hd] at h
    cases h
    exact .refused e rfl

theorem callbackStep_effect (cb : s.irqh.step = .cb) (answered : s.irqh.answered = true) (free : s.irqh.wait = none)
    (h : callbackStep s = .next t) : MoveEffect .irqh s t := by
  unfold callbackStep at h
  cases ho : s.irqh.pendingOps with
  | nil =>
    rw [ho] at h
    cases h
    exact .callbackDone rfl cb answered free ho rfl
  | cons w ws =>
    rw [ho] at h
    cases hd : decodeCmd w with
    | ok i =>
      simp only [hd] at h
      exact .callbackOp i w ws (decodeCmd_format hd) rfl cb answered free ho (exec_cmd_effect (decodeCmd_format hd) h)
    | error e =>
      simp only [hd] at h
      cases h
      exact .callbackBadWord w ws e rfl cb answered free ho rfl

theorem bootStart_effect {b : BootInput} (h : bootStart b s = .next t) : MoveEffect (.boot b) s t := by
  unfold bootStart at h
  split at h
  · cases h
    exact .refused _ rfl
  · have hu : s.mapped = false := by simpa using ‹¬ s.mapped = true›
    cases b <;> cases h
    · exact .bootStart _ hu rfl
    · exact .bootAborted hu rfl
    · exact .bootAborted hu rfl

theorem bootAdvance_effect (h : bootAdvance s = .next t) : MoveEffect .bootStep s t := by
  unfold bootAdvance at h
  cases hb : s.boot <;> rw [hb] at h
  case idle => cases h
  case disable n => exact .bootDisable n hb (exec_cmd_effect rfl h)
  case registerCe n =>
    cases h
    exact .bootCe n hb rfl
  case registerIrq =>
    cases h
    exact .bootIrq hb rfl
  case registerCs =>
    cases h
    exact .bootCs hb rfl
  case expose =>
    cases h
    exact .bootDone hb rfl

theorem agentStep_effect {m : Move} {a : Agent}
    (move : (∃ k, m = .reader k ∧ a = .reader k) ∨ (m = .event ∧ a = .event) ∨
      (m = .irqh ∧ a = .irqh ∧ (s.irqh.step = .h1 ∨ s.irqh.step = .h2)) ∨ (m = .rst ∧ a = .rst))
    (h : agentStep a s = .next t) : MoveEffect m s t := by
  obtain ⟨i, u, hi, e, ht⟩ := agentStep_cases h
  exact .sequenced a i u move hi e ht

/-- Everything a move that is taken can do. -/
theorem takeMove_effect {m : Move} (h : takeMove m s = .next t) : MoveEffect m s t := by
  unfold takeMove at h
  split at h
  case isFalse =>
    unfold disabledMove at h
    split at h <;> cases h
  case isTrue he =>
    cases m <;> simp only [runMove] at h
    case tick =>
      cases h
      exact .tick rfl rfl
    case host w => exact hostIssue_effect h
    case boot b => exact bootStart_effect h
    case bootStep => exact bootAdvance_effect h
    case reader k =>
      split at h
      · obtain ⟨r, hr, hd⟩ := readerDone_iff.1 ‹_›
        cases h
        exact .retired k r rfl hr hd (retireReader_eq hr)
      · exact agentStep_effect (.inl ⟨k, rfl, rfl⟩) h
    case event => exact agentStep_effect (.inr (.inl ⟨rfl, rfl⟩)) h
    case irq => exact .issue .irqEntry .irqh rfl (.inr ⟨rfl, rfl, he⟩) (exec_cmd_effect rfl h)
    case irqh =>
      unfold irqhStep at h
      cases hs : s.irqh.step <;> rw [hs] at h
      case idle => cases h
      case h1 => exact agentStep_effect (.inr (.inr (.inl ⟨rfl, rfl, .inl hs⟩))) h
      case h2 => exact agentStep_effect (.inr (.inr (.inl ⟨rfl, rfl, .inr hs⟩))) h
      case cb =>
        simp only [enabled, hs, Bool.and_eq_true, Option.isNone_iff_eq_none] at he
        exact callbackStep_effect hs he.1 he.2 h
      case ret =>
        cases h
        exact .returned rfl hs rfl
    case answer ops =>
      simp only [enabled, Bool.and_eq_true, decide_eq_true_eq, Bool.not_eq_true'] at he
      cases h
      exact .callback ops rfl he.1 he.2 rfl
    case rst => exact agentStep_effect (.inr (.inr (.inr ⟨rfl, rfl⟩))) h
    case sysreset =>
      cases h
      exact .sysreset rfl (by simpa [enabled] using he) rfl
    case bus a w =>
      unfold presentRecord at h
      cases hd : decodeBus s.params w with
      | ok i =>
        rw [hd] at h
        simp only [outsideTransaction, exec_bus_host (decodeBus_format hd)] at h
        cases h
        exact .presented _ rfl rfl
      | error e =>
        rw [hd] at h
        cases h
        exact .refused e rfl
    case access a d addr bytes v =>
      unfold presentAccess at h
      cases hd : accessInstr s.params d addr bytes v with
      | ok i =>
        rw [hd] at h
        simp only [outsideTransaction, exec_bus_host (accessInstr_format hd)] at h
        cases h
        exact .presented _ rfl rfl
      | error e =>
        rw [hd] at h
        cases h
        exact .refused e rfl

/-- Everything a step can do: the script's or the free choice's move, taken; or, with parameters that break R10, the
refusal BadParameters. -/
theorem step_effect (h : step s = .next t) :
    (s.params.wf = true ∧ takeMove (nextMove s).1 (nextMove s).2 = .next t ∧
      MoveEffect (nextMove s).1 (nextMove s).2 t) ∨ (s.params.wf = false ∧ t = s.refuse .badParameters) := by
  unfold step at h
  split at h
  · exact .inl ⟨‹_›, h, takeMove_effect h⟩
  · cases h
    exact .inr ⟨by simpa using ‹¬ s.params.wf = true›, rfl⟩

/-- A step with a scripted move. -/
theorem step_of_script {m : Move} {ms : List Move} (hw : s.params.wf = true) (hs : s.script = m :: ms) :
    step s = takeMove m { s with script := ms } := by
  simp [step, hw, nextMove, hs]

/-- One step of a run. -/
theorem core_run_succ (M : Host.Core) (n : Nat) (u : M.State) :
    M.run (n + 1) u =
      match M.step u with
      | .next v => M.run n v
      | .fault f => .fault f
      | .refused r => .refused r := by
  cases h : M.step u <;> simp only [Host.Core.run, h]

/-- A run of scripted moves: one step each. -/
theorem run_cons {m : Move} {ms : List Move} {n : Nat} (hw : s.params.wf = true) (hs : s.script = m :: ms) :
    Sys2Proof.core.run (n + 1) s =
      match takeMove m { s with script := ms } with
      | .next t => Sys2Proof.core.run n t
      | .fault f => .fault f
      | .refused r => .refused r := by
  rw [← step_of_script hw hs]
  have h := core_run_succ Sys2Proof.core n s
  cases hs' : step s with
  | next u =>
    rw [show Sys2Proof.core.step s = .next u from hs'] at h
    exact h
  | fault f =>
    rw [show Sys2Proof.core.step s = .fault f from hs'] at h
    exact h
  | refused r =>
    rw [show Sys2Proof.core.step s = .refused r from hs'] at h
    exact h

theorem run_zero : Sys2Proof.core.run 0 s = .next s := rfl

/-- Choosing the next move touches the script and the count of draws only. -/
theorem nextMove_state : (nextMove s).2 = { s with script := (nextMove s).2.script, draws := (nextMove s).2.draws } := by
  unfold nextMove
  cases s.script <;> rfl

end Sys2Proof.Machine
end

