-- ==== Sys2Proof/Laws/Run.lean ====
section
/-!
SUPPORT. Runs of a script: one move, a block of ticks, a sequencer's move, one admitted transaction of a sequence.
-/
namespace Sys2Proof.Machine

variable {s t : State}

/-- A scripted move that answers a next state is one step of a run. -/
theorem run_next {m : Move} {ms : List Move} {n : Nat} (hw : s.params.wf = true) (hs : s.script = m :: ms)
    (ht : takeMove m { s with script := ms } = .next t) : Sys2Proof.core.run (n + 1) s = Sys2Proof.core.run n t := by
  rw [run_cons hw hs, ht]

theorem takeMove_tick : takeMove .tick s = .next s.tick := rfl

/-- The state after `n` ticks with the rest of the script before it. -/
def State.afterTicks (s : State) (n : Nat) (rest : List Move) : State :=
  { s with
    cnt := later s.cnt n
    timer := timerRun s.params (ticks n) s.timer
    hist := s.hist ++ List.replicate n .tick
    script := rest }

theorem later_succ (c : DWord) (n : Nat) : later (c + 1#64) n = later c (n + 1) := by
  apply BitVec.eq_of_toNat_eq
  simp [later]
  omega

/-- A block of scripted ticks. -/
theorem run_ticks {n k : Nat} {rest : List Move} (hw : s.params.wf = true)
    (hs : s.script = List.replicate n .tick ++ rest) :
    Sys2Proof.core.run (n + k) s = Sys2Proof.core.run k (s.afterTicks n rest) := by
  induction n generalizing s with
  | zero =>
    simp only [List.replicate, List.nil_append] at hs
    simp [State.afterTicks, later, ticks, timerRun, ← hs]
  | succ n ih =>
    rw [show n + 1 + k = n + k + 1 by omega, run_next hw (t := State.tick { s with script := List.replicate n Move.tick ++ rest }) hs rfl,
      ih (by simpa using hw) rfl]
    congr 1
    simp only [State.afterTicks, State.tick, State.record, later_succ, ticks_succ, timerRun_tick,
      List.append_assoc, List.replicate_succ, List.singleton_append]
    rfl

/-- A sequencer's move is its agent's bus step while a transaction is next. -/
theorem takeMove_event {i : Instr} (hi : seqInstr .event s = some i) : takeMove .event s = agentStep .event s := by
  simp [takeMove, enabled, runMove, hi]

theorem takeMove_rst {i : Instr} (hi : seqInstr .rst s = some i) : takeMove .rst s = agentStep .rst s := by
  simp [takeMove, enabled, runMove, hi]

theorem takeMove_irqh {i : Instr} (hi : seqInstr .irqh s = some i) : takeMove .irqh s = agentStep .irqh s := by
  simp only [seqInstr, irqhInstr] at hi
  cases h : s.irqh.step <;> simp [h] at hi <;> simp [takeMove, enabled, runMove, irqhStep, h]

theorem takeMove_reader {k : Nat} {i : Instr} (hi : seqInstr (.reader k) s = some i) :
    takeMove (.reader k) s = agentStep (.reader k) s := by
  have hd : s.readerDone k = false := by
    cases hr : s.reader? k with
    | none => simp [State.readerDone, hr]
    | some r =>
      simp only [seqInstr, hr, Option.bind_some, Reader.nextInstr] at hi
      cases h : r.step <;> simp [h] at hi <;> simp [State.readerDone, hr, h]
  simp [takeMove, enabled, runMove, hi, hd]

/-- A READER at DONE takes its last step (R33). -/
theorem takeMove_reader_done {k : Nat} {r : Reader} (hr : s.readers[k]? = some r) (hd : r.step = .done) :
    takeMove (.reader k) s = .next (s.setReader k r.toIdle) := by
  simp [takeMove, enabled, runMove, readerDone_iff.2 ⟨r, hr, hd⟩, retireReader_eq hr]

/-- An admitted read of a sequence: the transaction, then the sequence's next step. -/
theorem agentStep_read {a : Agent} {i : Instr} {r : Reg} (hi : seqInstr a s = some i) (hr : busReg i = some r)
    (hd : regDir r = .read) (hp : permitted r a = true) (hm : s.mapped = true) :
    agentStep a s =
      .next (seqAfter a
        { s with
          master := a
          hist := s.hist ++ [.bus a .read (regOffset s.params r) (s.regValue r)]
          busData := s.regValue r }) := by
  have hwf : i.wf s.params = true := by
    cases i <;> first | rfl | (simp only [busReg, Option.some.injEq] at hr; subst hr; cases hd)
  obtain ⟨u, _, e, he⟩ := agentStep_next hi
  have ha : busAdmitted i { s with master := a } = true := busAdmitted_iff.2 ⟨r, hr, hp, hm, hwf⟩
  rw [he, if_pos ha]
  cases e with
  | refused _ hn _ => rw [ha] at hn; cases hn
  | read r' hr' _ _ eq =>
    rw [hr] at hr'
    cases hr'
    rw [eq]
    cases r <;> rfl
  | write r' hr' hd' _ _ =>
    rw [hr] at hr'
    cases hr'
    rw [hd] at hd'
    cases hd'

/-- An admitted write of a sequence: the transaction, then the sequence's next step. -/
theorem agentStep_write {a : Agent} {i : Instr} {r : Reg} (hi : seqInstr a s = some i) (hr : busReg i = some r)
    (hd : regDir r = .write) (hp : permitted r a = true) (hm : s.mapped = true) (hwf : i.wf s.params = true) :
    agentStep a s =
      .next (seqAfter a (storeEffect i
        { s with
          master := a
          hist := s.hist ++ [.bus a .write (regOffset s.params r) (storeData i)] })) := by
  obtain ⟨u, _, e, he⟩ := agentStep_next hi
  have ha : busAdmitted i { s with master := a } = true := busAdmitted_iff.2 ⟨r, hr, hp, hm, hwf⟩
  rw [he, if_pos ha]
  cases e with
  | refused _ hn _ => rw [ha] at hn; cases hn
  | read r' hr' hd' _ _ =>
    rw [hr] at hr'
    cases hr'
    rw [hd] at hd'
    cases hd'
  | write r' hr' _ _ eq =>
    rw [hr] at hr'
    cases hr'
    rw [eq]
    rfl

end Sys2Proof.Machine
end

