-- ==== Sys2Proof/Laws/Frames.lean ====
section
/-!
SUPPORT. What the sequences' own advance leaves alone (they write no register), and what a bus transaction leaves alone.
-/
namespace Sys2Proof.Machine

variable {s t : State}

/-- A sequence's advance is one of the named updates. -/
theorem seqAfter_cases (a : Agent) (s : State) :
    seqAfter a s = s ∨ (∃ k r, a = .reader k ∧ s.readers[k]? = some r ∧ seqAfter a s = s.readerAfter k) ∨
      (∃ st, a = .event ∧ seqAfter a s = s.setEventStep st ∧ st ≠ .idle ∧ s.event.step ≠ .idle ∧
        st.arming = s.event.step.arming) ∨
      (∃ r, a = .event ∧ seqAfter a s = (s.setEventStep .idle).ret .event r) ∨
      (∃ st, a = .irqh ∧ seqAfter a s = s.setIrqStep st ∧ ((s.irqh.step = .h1 ∧ st = .h2) ∨ (s.irqh.step = .h2 ∧ st = .cb))) ∨
      (a = .rst ∧ seqAfter a s = s.rstAfter) := by
  cases a <;> simp only [seqAfter]
  case reader k =>
    cases h : s.readers[k]? with
    | none => exact .inl (by simp [State.readerAfter, State.reader?, h])
    | some r => exact .inr (.inl ⟨k, r, rfl, h, rfl⟩)
  case event =>
    unfold State.eventAfter
    cases s.event.step
    case idle => exact .inl rfl
    case a4 => exact .inr (.inr (.inr (.inl ⟨_, trivial, rfl⟩)))
    case d2 => exact .inr (.inr (.inr (.inl ⟨_, trivial, rfl⟩)))
    all_goals exact .inr (.inr (.inl ⟨_, trivial, rfl, by decide, by decide, rfl⟩))
  case irqh =>
    unfold State.irqhAfter
    cases s.irqh.step <;> simp
  all_goals simp

/-! ### What `seqAfter` leaves alone -/

@[simp] theorem seqAfter_params (a : Agent) (s : State) : (seqAfter a s).params = s.params := by
  obtain h | ⟨k, r, _, hr, h⟩ | ⟨_, _, h, _⟩ | ⟨_, _, h⟩ | ⟨_, _, h, _⟩ | ⟨_, h⟩ := seqAfter_cases a s <;> rw [h]
  · rw [readerAfter_eq hr]
    split <;> rfl
  all_goals rfl
@[simp] theorem seqAfter_cnt (a : Agent) (s : State) : (seqAfter a s).cnt = s.cnt := by
  obtain h | ⟨k, r, _, hr, h⟩ | ⟨_, _, h, _⟩ | ⟨_, _, h⟩ | ⟨_, _, h, _⟩ | ⟨_, h⟩ := seqAfter_cases a s <;> rw [h]
  · rw [readerAfter_eq hr]
    split <;> rfl
  all_goals rfl
@[simp] theorem seqAfter_timer (a : Agent) (s : State) : (seqAfter a s).timer = s.timer := by
  obtain h | ⟨k, r, _, hr, h⟩ | ⟨_, _, h, _⟩ | ⟨_, _, h⟩ | ⟨_, _, h, _⟩ | ⟨_, h⟩ := seqAfter_cases a s <;> rw [h]
  · rw [readerAfter_eq hr]
    split <;> rfl
  all_goals rfl
@[simp] theorem seqAfter_rst20 (a : Agent) (s : State) : (seqAfter a s).rst20 = s.rst20 := by
  obtain h | ⟨k, r, _, hr, h⟩ | ⟨_, _, h, _⟩ | ⟨_, _, h⟩ | ⟨_, _, h, _⟩ | ⟨_, h⟩ := seqAfter_cases a s <;> rw [h]
  · rw [readerAfter_eq hr]
    split <;> rfl
  all_goals rfl
@[simp] theorem seqAfter_rst24 (a : Agent) (s : State) : (seqAfter a s).rst24 = s.rst24 := by
  obtain h | ⟨k, r, _, hr, h⟩ | ⟨_, _, h, _⟩ | ⟨_, _, h⟩ | ⟨_, _, h, _⟩ | ⟨_, h⟩ := seqAfter_cases a s <;> rw [h]
  · rw [readerAfter_eq hr]
    split <;> rfl
  all_goals rfl
@[simp] theorem seqAfter_rst2C (a : Agent) (s : State) : (seqAfter a s).rst2C = s.rst2C := by
  obtain h | ⟨k, r, _, hr, h⟩ | ⟨_, _, h, _⟩ | ⟨_, _, h⟩ | ⟨_, _, h, _⟩ | ⟨_, h⟩ := seqAfter_cases a s <;> rw [h]
  · rw [readerAfter_eq hr]
    split <;> rfl
  all_goals rfl
@[simp] theorem seqAfter_mapped (a : Agent) (s : State) : (seqAfter a s).mapped = s.mapped := by
  obtain h | ⟨k, r, _, hr, h⟩ | ⟨_, _, h, _⟩ | ⟨_, _, h⟩ | ⟨_, _, h, _⟩ | ⟨_, h⟩ := seqAfter_cases a s <;> rw [h]
  · rw [readerAfter_eq hr]
    split <;> rfl
  all_goals rfl
@[simp] theorem seqAfter_handler (a : Agent) (s : State) : (seqAfter a s).handler = s.handler := by
  obtain h | ⟨k, r, _, hr, h⟩ | ⟨_, _, h, _⟩ | ⟨_, _, h⟩ | ⟨_, _, h, _⟩ | ⟨_, h⟩ := seqAfter_cases a s <;> rw [h]
  · rw [readerAfter_eq hr]
    split <;> rfl
  all_goals rfl
@[simp] theorem seqAfter_regCe (a : Agent) (s : State) : (seqAfter a s).regCe = s.regCe := by
  obtain h | ⟨k, r, _, hr, h⟩ | ⟨_, _, h, _⟩ | ⟨_, _, h⟩ | ⟨_, _, h, _⟩ | ⟨_, h⟩ := seqAfter_cases a s <;> rw [h]
  · rw [readerAfter_eq hr]
    split <;> rfl
  all_goals rfl
@[simp] theorem seqAfter_regCs (a : Agent) (s : State) : (seqAfter a s).regCs = s.regCs := by
  obtain h | ⟨k, r, _, hr, h⟩ | ⟨_, _, h, _⟩ | ⟨_, _, h⟩ | ⟨_, _, h, _⟩ | ⟨_, h⟩ := seqAfter_cases a s <;> rw [h]
  · rw [readerAfter_eq hr]
    split <;> rfl
  all_goals rfl
@[simp] theorem seqAfter_irqReq (a : Agent) (s : State) : (seqAfter a s).irqReq = s.irqReq := by
  obtain h | ⟨k, r, _, hr, h⟩ | ⟨_, _, h, _⟩ | ⟨_, _, h⟩ | ⟨_, _, h, _⟩ | ⟨_, h⟩ := seqAfter_cases a s <;> rw [h]
  · rw [readerAfter_eq hr]
    split <;> rfl
  all_goals rfl
@[simp] theorem seqAfter_faults (a : Agent) (s : State) : (seqAfter a s).faults = s.faults := by
  obtain h | ⟨k, r, _, hr, h⟩ | ⟨_, _, h, _⟩ | ⟨_, _, h⟩ | ⟨_, _, h, _⟩ | ⟨_, h⟩ := seqAfter_cases a s <;> rw [h]
  · rw [readerAfter_eq hr]
    split <;> rfl
  all_goals rfl
@[simp] theorem seqAfter_refused (a : Agent) (s : State) : (seqAfter a s).refused = s.refused := by
  obtain h | ⟨k, r, _, hr, h⟩ | ⟨_, _, h, _⟩ | ⟨_, _, h⟩ | ⟨_, _, h, _⟩ | ⟨_, h⟩ := seqAfter_cases a s <;> rw [h]
  · rw [readerAfter_eq hr]
    split <;> rfl
  all_goals rfl
@[simp] theorem seqAfter_lastRefusal (a : Agent) (s : State) : (seqAfter a s).lastRefusal = s.lastRefusal := by
  obtain h | ⟨k, r, _, hr, h⟩ | ⟨_, _, h, _⟩ | ⟨_, _, h⟩ | ⟨_, _, h, _⟩ | ⟨_, h⟩ := seqAfter_cases a s <;> rw [h]
  · rw [readerAfter_eq hr]
    split <;> rfl
  all_goals rfl
@[simp] theorem seqAfter_boot (a : Agent) (s : State) : (seqAfter a s).boot = s.boot := by
  obtain h | ⟨k, r, _, hr, h⟩ | ⟨_, _, h, _⟩ | ⟨_, _, h⟩ | ⟨_, _, h, _⟩ | ⟨_, h⟩ := seqAfter_cases a s <;> rw [h]
  · rw [readerAfter_eq hr]
    split <;> rfl
  all_goals rfl
@[simp] theorem seqAfter_issuer (a : Agent) (s : State) : (seqAfter a s).issuer = s.issuer := by
  obtain h | ⟨k, r, _, hr, h⟩ | ⟨_, _, h, _⟩ | ⟨_, _, h⟩ | ⟨_, _, h, _⟩ | ⟨_, h⟩ := seqAfter_cases a s <;> rw [h]
  · rw [readerAfter_eq hr]
    split <;> rfl
  all_goals rfl
@[simp] theorem seqAfter_master (a : Agent) (s : State) : (seqAfter a s).master = s.master := by
  obtain h | ⟨k, r, _, hr, h⟩ | ⟨_, _, h, _⟩ | ⟨_, _, h⟩ | ⟨_, _, h, _⟩ | ⟨_, h⟩ := seqAfter_cases a s <;> rw [h]
  · rw [readerAfter_eq hr]
    split <;> rfl
  all_goals rfl
@[simp] theorem seqAfter_busData (a : Agent) (s : State) : (seqAfter a s).busData = s.busData := by
  obtain h | ⟨k, r, _, hr, h⟩ | ⟨_, _, h, _⟩ | ⟨_, _, h⟩ | ⟨_, _, h, _⟩ | ⟨_, h⟩ := seqAfter_cases a s <;> rw [h]
  · rw [readerAfter_eq hr]
    split <;> rfl
  all_goals rfl
@[simp] theorem seqAfter_script (a : Agent) (s : State) : (seqAfter a s).script = s.script := by
  obtain h | ⟨k, r, _, hr, h⟩ | ⟨_, _, h, _⟩ | ⟨_, _, h⟩ | ⟨_, _, h, _⟩ | ⟨_, h⟩ := seqAfter_cases a s <;> rw [h]
  · rw [readerAfter_eq hr]
    split <;> rfl
  all_goals rfl
@[simp] theorem seqAfter_draws (a : Agent) (s : State) : (seqAfter a s).draws = s.draws := by
  obtain h | ⟨k, r, _, hr, h⟩ | ⟨_, _, h, _⟩ | ⟨_, _, h⟩ | ⟨_, _, h, _⟩ | ⟨_, h⟩ := seqAfter_cases a s <;> rw [h]
  · rw [readerAfter_eq hr]
    split <;> rfl
  all_goals rfl

/-- A sequence's advance adds at most one return to the history. -/
theorem seqAfter_hist (a : Agent) (s : State) :
    (seqAfter a s).hist = s.hist ∨ ∃ b r, (seqAfter a s).hist = s.hist ++ [.ret b r] := by
  obtain h | ⟨k, r, _, hr, h⟩ | ⟨_, _, h, _⟩ | ⟨_, _, h⟩ | ⟨_, _, h, _⟩ | ⟨_, h⟩ := seqAfter_cases a s <;> rw [h]
  · exact .inl rfl
  · rw [readerAfter_eq hr]
    split
    · exact .inr ⟨_, _, rfl⟩
    · exact .inl rfl
  · exact .inl rfl
  · exact .inr ⟨_, _, rfl⟩
  · exact .inl rfl
  · exact .inl rfl

/-! ### What a bus transaction leaves alone -/

theorem BusEffect.params_eq {i : Instr} (e : BusEffect i s t) : t.params = s.params := by
  cases e with
  | refused _ _ eq => rw [eq]; rfl
  | read _ _ _ _ eq => rw [eq]
  | write _ _ _ _ eq => rw [eq]; cases i <;> rfl
theorem BusEffect.cnt_eq {i : Instr} (e : BusEffect i s t) : t.cnt = s.cnt := by
  cases e with
  | refused _ _ eq => rw [eq]; rfl
  | read _ _ _ _ eq => rw [eq]
  | write _ _ _ _ eq => rw [eq]; cases i <;> rfl
theorem BusEffect.readers_eq {i : Instr} (e : BusEffect i s t) : t.readers = s.readers := by
  cases e with
  | refused _ _ eq => rw [eq]; rfl
  | read _ _ _ _ eq => rw [eq]
  | write _ _ _ _ eq => rw [eq]; cases i <;> rfl
theorem BusEffect.event_eq {i : Instr} (e : BusEffect i s t) : t.event = s.event := by
  cases e with
  | refused _ _ eq => rw [eq]; rfl
  | read _ _ _ _ eq => rw [eq]
  | write _ _ _ _ eq => rw [eq]; cases i <;> rfl
theorem BusEffect.irqh_eq {i : Instr} (e : BusEffect i s t) : t.irqh = s.irqh := by
  cases e with
  | refused _ _ eq => rw [eq]; rfl
  | read _ _ _ _ eq => rw [eq]
  | write _ _ _ _ eq => rw [eq]; cases i <;> rfl
theorem BusEffect.rst_eq {i : Instr} (e : BusEffect i s t) : t.rst = s.rst := by
  cases e with
  | refused _ _ eq => rw [eq]; rfl
  | read _ _ _ _ eq => rw [eq]
  | write _ _ _ _ eq => rw [eq]; cases i <;> rfl
theorem BusEffect.mapped_eq {i : Instr} (e : BusEffect i s t) : t.mapped = s.mapped := by
  cases e with
  | refused _ _ eq => rw [eq]; rfl
  | read _ _ _ _ eq => rw [eq]
  | write _ _ _ _ eq => rw [eq]; cases i <;> rfl
theorem BusEffect.handler_eq {i : Instr} (e : BusEffect i s t) : t.handler = s.handler := by
  cases e with
  | refused _ _ eq => rw [eq]; rfl
  | read _ _ _ _ eq => rw [eq]
  | write _ _ _ _ eq => rw [eq]; cases i <;> rfl
theorem BusEffect.regCe_eq {i : Instr} (e : BusEffect i s t) : t.regCe = s.regCe := by
  cases e with
  | refused _ _ eq => rw [eq]; rfl
  | read _ _ _ _ eq => rw [eq]
  | write _ _ _ _ eq => rw [eq]; cases i <;> rfl
theorem BusEffect.regCs_eq {i : Instr} (e : BusEffect i s t) : t.regCs = s.regCs := by
  cases e with
  | refused _ _ eq => rw [eq]; rfl
  | read _ _ _ _ eq => rw [eq]
  | write _ _ _ _ eq => rw [eq]; cases i <;> rfl
theorem BusEffect.irqReq_eq {i : Instr} (e : BusEffect i s t) : t.irqReq = s.irqReq := by
  cases e with
  | refused _ _ eq => rw [eq]; rfl
  | read _ _ _ _ eq => rw [eq]
  | write _ _ _ _ eq => rw [eq]; cases i <;> rfl
theorem BusEffect.faults_eq {i : Instr} (e : BusEffect i s t) : t.faults = s.faults := by
  cases e with
  | refused _ _ eq => rw [eq]; rfl
  | read _ _ _ _ eq => rw [eq]
  | write _ _ _ _ eq => rw [eq]; cases i <;> rfl
theorem BusEffect.boot_eq {i : Instr} (e : BusEffect i s t) : t.boot = s.boot := by
  cases e with
  | refused _ _ eq => rw [eq]; rfl
  | read _ _ _ _ eq => rw [eq]
  | write _ _ _ _ eq => rw [eq]; cases i <;> rfl
theorem BusEffect.issuer_eq {i : Instr} (e : BusEffect i s t) : t.issuer = s.issuer := by
  cases e with
  | refused _ _ eq => rw [eq]; rfl
  | read _ _ _ _ eq => rw [eq]
  | write _ _ _ _ eq => rw [eq]; cases i <;> rfl
theorem BusEffect.master_eq {i : Instr} (e : BusEffect i s t) : t.master = s.master := by
  cases e with
  | refused _ _ eq => rw [eq]; rfl
  | read _ _ _ _ eq => rw [eq]
  | write _ _ _ _ eq => rw [eq]; cases i <;> rfl
theorem BusEffect.script_eq {i : Instr} (e : BusEffect i s t) : t.script = s.script := by
  cases e with
  | refused _ _ eq => rw [eq]; rfl
  | read _ _ _ _ eq => rw [eq]
  | write _ _ _ _ eq => rw [eq]; cases i <;> rfl
theorem BusEffect.draws_eq {i : Instr} (e : BusEffect i s t) : t.draws = s.draws := by
  cases e with
  | refused _ _ eq => rw [eq]; rfl
  | read _ _ _ _ eq => rw [eq]
  | write _ _ _ _ eq => rw [eq]; cases i <;> rfl

/-- A transaction that is no WR_CTRL or WR_LOAD leaves the countdown's registers alone. -/
theorem BusEffect.timer_eq {i : Instr} (e : BusEffect i s t) (hl : ∀ v, i ≠ .wrLoad v) (hc : ∀ v, i ≠ .wrCtrl v) :
    t.timer = s.timer := by
  cases e with
  | refused _ _ eq => rw [eq]; rfl
  | read _ _ _ _ eq => rw [eq]
  | write _ _ _ _ eq =>
    rw [eq]
    cases i <;> first | rfl | exact absurd rfl (hl _) | exact absurd rfl (hc _)

/-- A transaction adds its record to the history, or nothing when it is refused. -/
theorem BusEffect.hist_eq {i : Instr} (e : BusEffect i s t) :
    (busAdmitted i s = false ∧ t.hist = s.hist) ∨
      (busAdmitted i s = true ∧ ∃ r d v, busReg i = some r ∧ t.hist = s.hist ++ [.bus s.master d (regOffset s.params r) v]) := by
  cases e with
  | refused _ h eq => exact .inl ⟨h, by rw [eq]; rfl⟩
  | read r h _ ha eq => exact .inr ⟨ha, r, _, _, h, by rw [eq]⟩
  | write r h _ ha eq => exact .inr ⟨ha, r, .write, storeData i, h, by rw [eq]; cases i <;> rfl⟩

/-- The refusal marks after a transaction. -/
theorem BusEffect.marks {i : Instr} (e : BusEffect i s t) :
    (t.refused = s.refused ∧ t.lastRefusal = s.lastRefusal) ∨ (t.refused = true ∧ t.lastRefusal.isSome = true) := by
  cases e with
  | refused _ _ eq => exact .inr (by rw [eq]; exact ⟨rfl, rfl⟩)
  | read _ _ _ _ eq => exact .inl (by rw [eq]; exact ⟨rfl, rfl⟩)
  | write _ _ _ _ eq => exact .inl (by rw [eq]; cases i <;> exact ⟨rfl, rfl⟩)

/-! ### What issuing a command leaves alone -/

theorem IssueEffect.params_eq {i : Instr} (e : IssueEffect i s t) : t.params = s.params := by
  cases e <;> (rename_i eq; subst eq; rfl)
theorem IssueEffect.cnt_eq {i : Instr} (e : IssueEffect i s t) : t.cnt = s.cnt := by
  cases e <;> (rename_i eq; subst eq; rfl)
theorem IssueEffect.timer_eq {i : Instr} (e : IssueEffect i s t) : t.timer = s.timer := by
  cases e <;> (rename_i eq; subst eq; rfl)
theorem IssueEffect.rst20_eq {i : Instr} (e : IssueEffect i s t) : t.rst20 = s.rst20 := by
  cases e <;> (rename_i eq; subst eq; rfl)
theorem IssueEffect.rst24_eq {i : Instr} (e : IssueEffect i s t) : t.rst24 = s.rst24 := by
  cases e <;> (rename_i eq; subst eq; rfl)
theorem IssueEffect.rst2C_eq {i : Instr} (e : IssueEffect i s t) : t.rst2C = s.rst2C := by
  cases e <;> (rename_i eq; subst eq; rfl)
theorem IssueEffect.mapped_eq {i : Instr} (e : IssueEffect i s t) : t.mapped = s.mapped := by
  cases e <;> (rename_i eq; subst eq; rfl)
theorem IssueEffect.handler_eq {i : Instr} (e : IssueEffect i s t) : t.handler = s.handler := by
  cases e <;> (rename_i eq; subst eq; rfl)
theorem IssueEffect.regCe_eq {i : Instr} (e : IssueEffect i s t) : t.regCe = s.regCe := by
  cases e <;> (rename_i eq; subst eq; rfl)
theorem IssueEffect.regCs_eq {i : Instr} (e : IssueEffect i s t) : t.regCs = s.regCs := by
  cases e <;> (rename_i eq; subst eq; rfl)
theorem IssueEffect.irqReq_eq {i : Instr} (e : IssueEffect i s t) : t.irqReq = s.irqReq := by
  cases e <;> (rename_i eq; subst eq; rfl)
theorem IssueEffect.boot_eq {i : Instr} (e : IssueEffect i s t) : t.boot = s.boot := by
  cases e <;> (rename_i eq; subst eq; rfl)
theorem IssueEffect.issuer_eq {i : Instr} (e : IssueEffect i s t) : t.issuer = s.issuer := by
  cases e <;> (rename_i eq; subst eq; rfl)
theorem IssueEffect.master_eq {i : Instr} (e : IssueEffect i s t) : t.master = s.master := by
  cases e <;> (rename_i eq; subst eq; rfl)
theorem IssueEffect.busData_eq {i : Instr} (e : IssueEffect i s t) : t.busData = s.busData := by
  cases e <;> (rename_i eq; subst eq; rfl)
theorem IssueEffect.script_eq {i : Instr} (e : IssueEffect i s t) : t.script = s.script := by
  cases e <;> (rename_i eq; subst eq; rfl)
theorem IssueEffect.draws_eq {i : Instr} (e : IssueEffect i s t) : t.draws = s.draws := by
  cases e <;> (rename_i eq; subst eq; rfl)

/-- Issuing a command adds at most one return to the history (R41). -/
theorem IssueEffect.hist_cases {i : Instr} (e : IssueEffect i s t) :
    ∃ r, t.hist = s.hist ∨ t.hist = s.hist ++ [.ret .event r] ∨ t.hist = s.hist ++ [.ret .rst r] := by
  cases e <;> (rename_i eq; subst eq)
  case armUnavailable => exact ⟨_, .inr (.inl rfl)⟩
  case resetUnmapped => exact ⟨_, .inr (.inr rfl)⟩
  all_goals exact ⟨.ok, .inl rfl⟩

theorem IssueEffect.hist_grows {i : Instr} (e : IssueEffect i s t) : ∃ es, t.hist = s.hist ++ es := by
  obtain ⟨r, h | h | h⟩ := e.hist_cases
  · exact ⟨[], by simp [h]⟩
  · exact ⟨_, h⟩
  · exact ⟨_, h⟩

/-- Issuing a command removes no member of FAULT (R42). -/
theorem IssueEffect.faults_sub {i : Instr} (e : IssueEffect i s t) : ∀ f ∈ s.faults, f ∈ t.faults := by
  cases e <;> (rename_i eq; subst eq)
  case raced =>
    intro f hf
    simp only [State.raiseFault_faults]
    split <;> simp_all
  all_goals exact fun _ h => h

/-- The refusal marks after issuing a command. -/
theorem IssueEffect.marks {i : Instr} (e : IssueEffect i s t) :
    (t.refused = s.refused ∧ t.lastRefusal = s.lastRefusal) ∨ (t.refused = true ∧ t.lastRefusal.isSome = true) := by
  cases e <;> (rename_i eq; subst eq)
  case refused => exact .inr ⟨rfl, rfl⟩
  all_goals exact .inl ⟨rfl, rfl⟩

end Sys2Proof.Machine
end

