-- ==== Sys2Proof/Laws/Fairness.lean ====
section
/-!
SUPPORT. What stays as it is while an operation is under way, and how fairness brings its next step (R179).
-/
namespace Sys2Proof.Machine

variable {s t : State} {m : Move}

/-! ## What the other agents' moves leave alone -/

/-- Only a system reset unmaps the block. -/
theorem takeMove_mapped (h : takeMove m s = .next t) (hm : s.mapped = true) (hs : m ≠ .sysreset) : t.mapped = true := by
  cases takeMove_effect h with
  | sysreset mv => exact absurd mv hs
  | issue i who cmd src e => rw [e.mapped_eq]; exact hm
  | bootDisable _ _ e => rw [e.mapped_eq]; exact hm
  | callbackOp i w ws cmd mv cb an fr ops e => rw [e.mapped_eq]; exact hm
  | sequenced a i u mv nx e eq =>
    subst eq
    split <;> simp [e.mapped_eq, hm]
  | bootStart h u eq => subst eq; rfl
  | _ => rename_i eq; subst eq; exact hm

/-- The parameters never change (R10). -/
theorem takeMove_params (h : takeMove m s = .next t) : t.params = s.params := by
  cases takeMove_effect h with
  | issue i who cmd src e => exact e.params_eq
  | bootDisable _ _ e => exact e.params_eq
  | callbackOp i w ws cmd mv cb an fr ops e => exact e.params_eq
  | sequenced a i u mv nx e eq =>
    subst eq
    split <;> simp [e.params_eq]
  | _ => rename_i eq; subst eq; rfl

/-- Another agent's advance does not touch EVENT. -/
theorem seqAfter_event {a : Agent} (ha : a ≠ .event) : (seqAfter a s).event = s.event := by
  obtain h | ⟨k, r, _, hr, h⟩ | ⟨_, h, _⟩ | ⟨_, h, _⟩ | ⟨_, _, h, _⟩ | ⟨_, h⟩ := seqAfter_cases a s
  · rw [h]
  · rw [h, readerAfter_eq hr]
    split <;> rfl
  · exact absurd h ha
  · exact absurd h ha
  · rw [h]; rfl
  · rw [h]; rfl

/-- Another agent's advance does not touch RST. -/
theorem seqAfter_rst {a : Agent} (ha : a ≠ .rst) : (seqAfter a s).rst = s.rst := by
  obtain h | ⟨k, r, _, hr, h⟩ | ⟨_, _, h, _⟩ | ⟨_, _, h⟩ | ⟨_, _, h, _⟩ | ⟨h, _⟩ := seqAfter_cases a s
  · rw [h]
  · rw [h, readerAfter_eq hr]
    split <;> rfl
  · rw [h]; rfl
  · rw [h]; rfl
  · rw [h]; rfl
  · exact absurd h ha

/-- Another agent's advance does not touch READER(k). -/
theorem seqAfter_reader {a : Agent} {k : Nat} (ha : a ≠ .reader k) : (seqAfter a s).readers[k]? = s.readers[k]? := by
  obtain h | ⟨j, r, hj, hr, h⟩ | ⟨_, _, h, _⟩ | ⟨_, _, h⟩ | ⟨_, _, h, _⟩ | ⟨_, h⟩ := seqAfter_cases a s
  · rw [h]
  · have hjk : j ≠ k := fun e => ha (by rw [hj, e])
    rw [h, readerAfter_eq hr]
    split <;> simp [State.setReader, State.ret, State.record, List.getElem?_set_ne hjk]
  all_goals rw [h]; rfl

/-- A return leaves IRQH alone, or ends its wait (R125). -/
theorem ret_irqh (a : Agent) (r : Result) :
    (s.ret a r).irqh = s.irqh ∨ (s.ret a r).irqh = { s.irqh with wait := none } := by
  by_cases h : s.irqh.wait = some a
  · exact .inr (by simp [State.ret, h])
  · exact .inl (by simp [State.ret, h])

/-- Another agent's advance leaves IRQH alone, or ends its wait. -/
theorem seqAfter_irqh {a : Agent} (ha : a ≠ .irqh) :
    (seqAfter a s).irqh = s.irqh ∨ (seqAfter a s).irqh = { s.irqh with wait := none } := by
  obtain h | ⟨j, r, hj, hr, h⟩ | ⟨_, _, h, _⟩ | ⟨_, _, h⟩ | ⟨_, h, _⟩ | ⟨_, h⟩ := seqAfter_cases a s
  · exact .inl (by rw [h])
  · rw [h, readerAfter_eq hr]
    split
    · exact ret_irqh _ _
    · exact .inl rfl
  · exact .inl (by rw [h]; rfl)
  · rw [h]
    exact ret_irqh _ _
  · exact absurd h ha
  · exact .inl (by rw [h]; rfl)

/-- A command that is issued starts nothing on a busy EVENT (R128). -/
theorem IssueEffect.event_busy {i : Instr} (e : IssueEffect i s t) (hb : s.event.step ≠ .idle) : t.event = s.event := by
  cases e with
  | arm d _ _ _ free => simp [State.eventBusy, hb] at free
  | disable _ _ free => simp [State.eventBusy, hb] at free
  | _ => rename_i eq; subst eq; rfl

/-- RESET starts on an idle RST only (R138). -/
theorem IssueEffect.rst_busy {i : Instr} (e : IssueEffect i s t) (hb : s.rst ≠ .idle) : t.rst = s.rst := by
  cases e with
  | reset _ _ _ idle => exact absurd idle hb
  | _ => rename_i eq; subst eq; rfl

/-- Issuing a command leaves every READER there is alone. -/
theorem IssueEffect.reader_eq {i : Instr} (e : IssueEffect i s t) {k : Nat} (hk : k < s.readers.length) :
    t.readers[k]? = s.readers[k]? := by
  cases e with
  | read64 _ _ eq => subst eq; simp [State.startReader, State.awaited, List.getElem?_append_left hk]
  | _ => rename_i eq; subst eq; rfl

/-- A command that HOST issues leaves IRQH alone, or ends its wait (an unmapped ARM's return). -/
theorem IssueEffect.irqh_host {i : Instr} (e : IssueEffect i s t) (hi : s.issuer = .host) :
    t.irqh = s.irqh ∨ t.irqh = { s.irqh with wait := none } := by
  cases e with
  | armUnavailable d _ _ eq => subst eq; exact ret_irqh _ _
  | resetUnmapped _ _ eq => subst eq; exact ret_irqh _ _
  | irqEntry _ line => rw [hi] at line; cases line
  | read64 _ _ eq => subst eq; exact .inl (by simp [State.startReader, State.awaited, hi])
  | arm d _ _ _ _ eq => subst eq; exact .inl (by simp [State.startEvent, State.awaited, hi])
  | disable _ _ _ eq => subst eq; exact .inl (by simp [State.startEvent, State.awaited, hi])
  | _ => rename_i eq; subst eq; exact .inl rfl

/-- EVENT under way is moved by itself and by a system reset only. -/
theorem takeMove_event_busy (h : takeMove m s = .next t) (hb : s.event.step ≠ .idle) (hm : m ≠ .event)
    (hs : m ≠ .sysreset) : t.event = s.event := by
  cases takeMove_effect h with
  | sysreset mv => exact absurd mv hs
  | issue i who cmd src e => exact e.event_busy hb
  | bootDisable _ _ e => exact e.event_busy hb
  | callbackOp i w ws cmd mv cb an fr ops e => exact e.event_busy hb
  | sequenced a i u mv nx e eq =>
    have ha : a ≠ .event := by
      rintro rfl
      rcases mv with ⟨_, _, h2⟩ | ⟨h1, h2⟩ | ⟨h1, h2, _⟩ | ⟨h1, h2⟩ <;> first | exact hm h1 | cases h2
    subst eq
    split <;> simp [seqAfter_event ha, e.event_eq]
  | _ => rename_i eq; subst eq; rfl

/-- RST under way is moved by itself and by a system reset only. -/
theorem takeMove_rst_busy (h : takeMove m s = .next t) (hb : s.rst ≠ .idle) (hm : m ≠ .rst) (hs : m ≠ .sysreset) :
    t.rst = s.rst := by
  cases takeMove_effect h with
  | sysreset mv => exact absurd mv hs
  | issue i who cmd src e => exact e.rst_busy hb
  | bootDisable _ _ e => exact e.rst_busy hb
  | callbackOp i w ws cmd mv cb an fr ops e => exact e.rst_busy hb
  | sequenced a i u mv nx e eq =>
    have ha : a ≠ .rst := by
      rintro rfl
      rcases mv with ⟨_, _, h2⟩ | ⟨h1, h2⟩ | ⟨h1, h2, _⟩ | ⟨h1, h2⟩ <;> first | exact hm h1 | cases h2
    subst eq
    split <;> simp [seqAfter_rst ha, e.rst_eq]
  | _ => rename_i eq; subst eq; rfl

/-- A READER is moved by itself and by a system reset only (R58). -/
theorem takeMove_reader_kept {k : Nat} (h : takeMove m s = .next t) (hk : k < s.readers.length) (hm : m ≠ .reader k)
    (hs : m ≠ .sysreset) : t.readers[k]? = s.readers[k]? := by
  cases takeMove_effect h with
  | sysreset mv => exact absurd mv hs
  | issue i who cmd src e => exact e.reader_eq hk
  | bootDisable _ _ e => exact e.reader_eq hk
  | callbackOp i w ws cmd mv cb an fr ops e => exact e.reader_eq hk
  | sequenced a i u mv nx e eq =>
    have ha : a ≠ .reader k := by
      rintro rfl
      rcases mv with ⟨j, h1, h2⟩ | ⟨_, h2⟩ | ⟨_, h2, _⟩ | ⟨_, h2⟩
      · exact hm (by rw [h1, Agent.reader.inj h2])
      all_goals cases h2
    subst eq
    split <;> simp [seqAfter_reader ha, e.readers_eq]
  | retired j r mv hr hd eq =>
    have hjk : j ≠ k := fun e => hm (by rw [mv, e])
    subst eq
    simp [State.setReader, List.getElem?_set_ne hjk]
  | _ => rename_i eq; subst eq; rfl

/-- Another agent's move leaves IRQH alone, or ends its wait (R125). -/
theorem takeMove_irqh_kept (h : takeMove m s = .next t) (hm : stepOf m ≠ some .irqh) (hs : m ≠ .sysreset) :
    t.irqh = s.irqh ∨ t.irqh = { s.irqh with wait := none } := by
  cases takeMove_effect h with
  | sysreset mv => exact absurd mv hs
  | issue i who cmd src e =>
    rcases src with rfl | ⟨rfl, _⟩
    · exact e.irqh_host rfl
    · exact absurd rfl hm
  | bootDisable _ _ e => exact e.irqh_host rfl
  | callbackOp i w ws cmd mv => subst mv; exact absurd rfl hm
  | callbackBadWord w ws e mv => subst mv; exact absurd rfl hm
  | callback ops mv => subst mv; exact absurd rfl hm
  | callbackDone mv => subst mv; exact absurd rfl hm
  | returned mv => subst mv; exact absurd rfl hm
  | sequenced a i u mv nx e eq =>
    have ha : a ≠ .irqh := by
      rintro rfl
      rcases mv with ⟨_, _, h2⟩ | ⟨_, h2⟩ | ⟨h1, _⟩ | ⟨_, h2⟩ <;> first | exact hm (by rw [h1]; rfl) | cases h2
    subst eq
    split
    · simpa [e.irqh_eq] using seqAfter_irqh (s := u) ha
    · exact .inl e.irqh_eq
  | _ => rename_i eq; subst eq; exact .inl rfl

/-! ## What a sequence's own move does -/

/-- A return ends IRQH's wait for that agent (R125). -/
theorem ret_wait (a : Agent) (r : Result) : (s.ret a r).irqh.wait ≠ some a := by
  by_cases h : s.irqh.wait = some a <;> simp [State.ret, h]

/-- The step of EVENT after its transaction (R115, R122). -/
def EventStep.after : EventStep → EventStep
  | .a1 => .a2
  | .a2 => .a3
  | .a3 => .a4
  | .a4 => .idle
  | .d1 => .d2
  | .d2 => .idle
  | .idle => .idle

/-- EVENT's own move: its next step; at the last one its return, which ends IRQH's wait for it. -/
theorem takeMove_event_own (hm : s.mapped = true) (hb : s.event.step ≠ .idle) (h : takeMove .event s = .next t) :
    t.event.step = s.event.step.after ∧
      (t.event.step ≠ .idle → t.irqh = s.irqh) ∧
      (t.event.step = .idle →
        t.irqh.wait ≠ some .event ∧ (t.irqh = s.irqh ∨ t.irqh = { s.irqh with wait := none }) ∧
          ∃ es, t.hist = s.hist ++ es ++ [.ret .event (if s.event.step = .a4 then .ok else .unit)]) := by
  cases he : s.event.step with
  | idle => exact absurd he hb
  | a1 | a3 =>
    have hi : ∃ v, seqInstr .event s = some (.wrLoad v) := by simp [seqInstr, eventInstr, he]
    obtain ⟨v, hi⟩ := hi
    rw [takeMove_event hi, agentStep_write hi (r := .load) rfl rfl rfl hm rfl] at h
    cases h
    simp [seqAfter, State.eventAfter, storeEffect, he, State.setEventStep, EventStep.after]
  | a2 | d1 =>
    have hi : ∃ v, seqInstr .event s = some (.wrCtrl v) ∧ Instr.wf s.params (.wrCtrl v) = true := by
      simp [seqInstr, eventInstr, he, Instr.wf, Params.ctrlValues]
    obtain ⟨v, hi, hw⟩ := hi
    rw [takeMove_event hi, agentStep_write hi (r := .ctrl) rfl rfl rfl hm hw] at h
    cases h
    simp [seqAfter, State.eventAfter, storeEffect, he, State.setEventStep, EventStep.after]
  | a4 | d2 =>
    have hi : ∃ v, seqInstr .event s = some (.wrCtrl v) ∧ Instr.wf s.params (.wrCtrl v) = true := by
      simp [seqInstr, eventInstr, he, Instr.wf, Params.ctrlValues]
    obtain ⟨v, hi, hw⟩ := hi
    rw [takeMove_event hi, agentStep_write hi (r := .ctrl) rfl rfl rfl hm hw] at h
    cases h
    simp only [seqAfter, State.eventAfter, storeEffect, he]
    exact ⟨rfl, fun h => absurd rfl h, fun _ => ⟨ret_wait _ _, ret_irqh _ _, _, rfl⟩⟩

/-- How many bus steps a READER may still have before it (R97). -/
def ReaderStep.left : ReaderStep → Nat
  | .s1 => 4
  | .s2 => 3
  | .s3 => 2
  | .s4 => 1
  | .idle => 0
  | .done => 0

/-- A READER's own move: fewer steps before it; at the last one its return, which ends IRQH's wait for it. -/
theorem takeMove_reader_own {k : Nat} {r : Reader} (hm : s.mapped = true) (hr : s.readers[k]? = some r)
    (hb : r.step.left ≠ 0) (h : takeMove (.reader k) s = .next t) :
    ∃ r', t.readers[k]? = some r' ∧ r'.step.left < r.step.left ∧
      (r'.step.left ≠ 0 → t.irqh = s.irqh) ∧
      (r'.step.left = 0 →
        t.irqh.wait ≠ some (.reader k) ∧ (t.irqh = s.irqh ∨ t.irqh = { s.irqh with wait := none }) ∧
          ∃ es v, t.hist = s.hist ++ es ++ [.ret (.reader k) (.value v)]) := by
  have hi : ∃ i g, seqInstr (.reader k) s = some i ∧ busReg i = some g ∧ regDir g = .read ∧
      permitted g (.reader k) = true := by
    simp only [seqInstr, State.reader?, hr, Option.bind_some, Reader.nextInstr]
    cases hs : r.step <;> simp [hs, ReaderStep.left] at hb <;> exact ⟨_, _, rfl, rfl, rfl, rfl⟩
  obtain ⟨i, g, hi, hg, hd, hp⟩ := hi
  rw [takeMove_reader hi, agentStep_read hi hg hd hp hm] at h
  cases h
  have hl : k < s.readers.length := (List.getElem?_eq_some_iff.1 hr).1
  have lt : ∀ v, (r.advance v).step.left < r.step.left ∧
      ((r.advance v).step.left = 0 ↔ (r.advance v).step = .done) := by
    intro v
    unfold Reader.advance
    by_cases hv : r.hi1 = v <;> cases hs : r.step <;> simp [hs, hv, ReaderStep.left] at hb ⊢
  have after : ∀ u : State, u.readers = s.readers → u.irqh = s.irqh → (∃ es, u.hist = s.hist ++ es) →
      ∃ r', (seqAfter (.reader k) u).readers[k]? = some r' ∧ r'.step.left < r.step.left ∧
        (r'.step.left ≠ 0 → (seqAfter (.reader k) u).irqh = s.irqh) ∧
        (r'.step.left = 0 →
          (seqAfter (.reader k) u).irqh.wait ≠ some (.reader k) ∧
            ((seqAfter (.reader k) u).irqh = s.irqh ∨
              (seqAfter (.reader k) u).irqh = { s.irqh with wait := none }) ∧
            ∃ es v, (seqAfter (.reader k) u).hist = s.hist ++ es ++ [.ret (.reader k) (.value v)]) := by
    intro u hur hui ⟨es, huh⟩
    have he : seqAfter (.reader k) u = _ := readerAfter_eq (s := u) (r := r) (hur ▸ hr)
    rw [he]
    refine ⟨r.advance u.busData, ?_, (lt _).1, fun h0 => ?_, fun h0 => ?_⟩
    · split <;> simp [State.ret, State.record, State.setReader, hur, hl]
    · rw [if_neg (fun e => h0 ((lt _).2.2 e)), ← hui]
      rfl
    · rw [if_pos ((lt _).2.1 h0), ← hui]
      exact ⟨ret_wait _ _, ret_irqh _ _, es, (r.advance u.busData).result,
        by simp [State.ret, State.record, State.setReader, huh]⟩
  exact after _ rfl rfl ⟨_, rfl⟩

/-- RST's own move. -/
theorem takeMove_rst_own (hm : s.mapped = true) (hb : s.rst ≠ .idle) (hh : s.rst ≠ .halted)
    (h : takeMove .rst s = .next t) : t.rst = s.rst.after := by
  have hi : ∃ i g, seqInstr .rst s = some i ∧ busReg i = some g ∧ regDir g = .write ∧ permitted g .rst = true ∧
      i.wf s.params = true := by
    simp only [seqInstr, rstInstr]
    cases hs : s.rst <;> simp [hs] at hb hh <;> exact ⟨_, _, rfl, rfl, rfl, rfl, rfl⟩
  obtain ⟨i, g, hi, hg, hd, hp, hw⟩ := hi
  rw [takeMove_rst hi, agentStep_write hi hg hd hp hm hw] at h
  cases h
  cases i <;> rfl

/-- IRQH's own bus steps H1 and H2 (R125). -/
theorem takeMove_irqh_own (hm : s.mapped = true) (hb : s.irqh.step = .h1 ∨ s.irqh.step = .h2)
    (h : takeMove .irqh s = .next t) :
    t.irqh = { s.irqh with step := if s.irqh.step = .h1 then .h2 else .cb } := by
  have hi : ∃ v, seqInstr .irqh s = some (.wrCtrl v) ∧ Instr.wf s.params (.wrCtrl v) = true := by
    rcases hb with hb | hb <;> simp [seqInstr, irqhInstr, hb, Instr.wf, Params.ctrlValues]
  obtain ⟨v, hi, hw⟩ := hi
  rw [takeMove_irqh hi, agentStep_write hi (r := .ctrl) rfl rfl rfl hm hw] at h
  cases h
  rcases hb with hb | hb <;> simp [seqAfter, State.irqhAfter, storeEffect, hb, State.setIrqStep]

/-- Issuing an operation of the callback's answer leaves IRQH at step CB with the rest of the list (R125). -/
theorem callbackStep_cons {w : DWord} {ws : List DWord} (hc : s.irqh.step = .cb) (ho : s.irqh.pendingOps = w :: ws)
    (h : callbackStep s = .next t) :
    t.irqh.step = s.irqh.step ∧ t.irqh.answered = s.irqh.answered ∧ t.irqh.pendingOps = ws := by
  simp only [callbackStep, ho] at h
  cases hd : decodeCmd w with
  | error e =>
    rw [hd] at h
    cases h
    exact ⟨rfl, rfl, rfl⟩
  | ok i =>
    rw [hd] at h
    cases exec_cmd_effect (decodeCmd_format hd) h with
    | irqEntry _ _ ncb => exact absurd hc ncb
    | armUnavailable _ _ _ eq => subst eq; exact ⟨rfl, rfl, rfl⟩
    | resetUnmapped _ _ eq => subst eq; exact ⟨rfl, rfl, rfl⟩
    | _ => rename_i eq; subst eq; exact ⟨rfl, rfl, rfl⟩

/-- SYSRESET is taken at HALTED only (R136). -/
theorem takeMove_sysreset_halted (h : takeMove .sysreset s = .next t) : s.rst = .halted := by
  by_cases hr : s.rst = .halted
  · exact hr
  · simp [takeMove, enabled, disabledMove, hr] at h

/-! ## Whose step a move is -/

theorem stepOf_tick (h : stepOf m = some .tick) : m = .tick := by
  revert h; cases m <;> simp [stepOf]

theorem stepOf_event (h : stepOf m = some .event) : m = .event := by
  revert h; cases m <;> simp [stepOf]

theorem stepOf_rst (h : stepOf m = some .rst) : m = .rst := by
  revert h; cases m <;> simp [stepOf]

theorem stepOf_reader {k : Nat} (h : stepOf m = some (.reader k)) : m = .reader k := by
  revert h; cases m <;> simp [stepOf]

/-- A step of IRQH with IRQH active is its own next step or the callback's answer: it does not nest (R151). -/
theorem stepOf_irqh_active (ha : s.irqh.active = true) (hm : stepOf m = some .irqh) (h : takeMove m s = .next t) :
    m = .irqh ∨ ∃ ops, m = .answer ops := by
  cases m <;> simp [stepOf] at hm ⊢
  case irq => simp [takeMove, enabled, State.irqEnabled, ha, disabledMove] at h

/-! ## How fairness brings the next step -/

variable {states : Nat → State} {moves : Nat → Move}

/-- A step of an execution, with the script and the count of draws it was taken with. -/
theorem Execution.taken (e : Execution states moves) (n : Nat) :
    ∃ u : State, (∃ script draws, u = { states n with script := script, draws := draws }) ∧
      takeMove (moves n) u = .next (states (n + 1)) := by
  obtain ⟨a, b, h⟩ := e.2 n
  exact ⟨_, ⟨a, b, rfl⟩, h⟩

/-- What fairness to one agent brings about: while `P` holds the agent has a step, and each step of the execution ends the
wait, or keeps `P` and lowers the rank, or keeps both and is not the agent's. -/
theorem WeaklyFair.until (f : WeaklyFair states moves) {a : Agent} {P : State → Prop} {Q : Nat → Prop}
    {rank : State → Nat} (hen : ∀ j, P (states j) → agentEnabled a (states j))
    (hst : ∀ j, P (states j) → Q j ∨ (P (states (j + 1)) ∧ (rank (states (j + 1)) < rank (states j) ∨
      (stepOf (moves j) ≠ some a ∧ rank (states (j + 1)) = rank (states j)))))
    {n : Nat} (h : P (states n)) : ∃ m, n ≤ m ∧ (∀ j, n ≤ j → j ≤ m → P (states j)) ∧ Q m := by
  refine Classical.byContradiction fun hn => ?_
  have noQ : ∀ j, n ≤ j → (∀ i, n ≤ i → i ≤ j → P (states i)) → ¬ Q j := fun j hj hp hq => hn ⟨j, hj, hp, hq⟩
  have all : ∀ d, ∀ i, n ≤ i → i ≤ n + d → P (states i) := by
    intro d
    induction d with
    | zero =>
      intro i h1 h2
      rwa [show i = n by omega]
    | succ d ih =>
      intro i h1 h2
      by_cases hi : i ≤ n + d
      · exact ih i h1 hi
      · rw [show i = n + d + 1 by omega]
        exact ((hst (n + d) (ih _ (by omega) (by omega))).resolve_left (noQ _ (by omega) ih)).1
  have hp : ∀ i, n ≤ i → P (states i) := fun i hi => all (i - n) i hi (by omega)
  have hq : ∀ i, n ≤ i → ¬ Q i := fun i hi => noQ i hi (fun j hj _ => hp j hj)
  have down : ∀ r i, n ≤ i → rank (states i) = r → False := by
    intro r
    induction r using Nat.strongRecOn with
    | _ r ih =>
      intro i hi hr
      have keep : ∀ d, rank (states (i + d)) = r := by
        intro d
        induction d with
        | zero => exact hr
        | succ d ihd =>
          rcases ((hst (i + d) (hp _ (by omega))).resolve_left (hq _ (by omega))).2 with h | h
          · exact (ih _ (ihd ▸ h) (i + d + 1) (by omega) rfl).elim
          · exact h.2.trans ihd
      obtain ⟨m, hm, ho⟩ := f a i (fun m hm => hen m (hp m (by omega)))
      rcases ((hst m (hp _ (by omega))).resolve_left (hq _ (by omega))).2 with h | h
      · have hk := keep (m - i)
        rw [show i + (m - i) = m by omega] at hk
        exact ih _ (hk ▸ h) (m + 1) (by omega) rfl
      · exact h.1 ho
  exact down _ n (Nat.le_refl _) rfl

/-- An operation that stays under way and completes later completes. -/
theorem Completes.later {n k : Nat} {underWay : State → Prop} {a : Agent} {result : Result → Prop} (hn : n ≤ k)
    (hu : ∀ j, n ≤ j → j ≤ k → underWay (states j)) (h : Completes states moves (k + 1) underWay a result) :
    Completes states moves n underWay a result := by
  obtain ⟨m, h1, h2, h3⟩ := h
  refine ⟨m, by omega, fun j hj hm => ?_, h3⟩
  by_cases hk : j ≤ k
  · exact hu j hj hk
  · exact h2 j (by omega) hm

/-- An infinite run of the machine's own steps is an execution, with the moves that its script and its draws choose. -/
theorem execution_of_steps (hw : (states 0).params.wf = true) (h : ∀ n, step (states n) = .next (states (n + 1))) :
    Execution states (fun n => (nextMove (states n)).1) := by
  have hwf : ∀ n, (states n).params.wf = true := by
    intro n
    induction n with
    | zero => exact hw
    | succ n ih =>
      rcases step_effect (h n) with ⟨_, ht, _⟩ | ⟨hf, _⟩
      · rw [takeMove_params ht, nextMove_state]
        exact ih
      · rw [ih] at hf
        cases hf
  refine ⟨hw, fun n => ⟨(nextMove (states n)).2.script, (nextMove (states n)).2.draws, ?_⟩⟩
  rw [← nextMove_state, ← h n]
  simp [step, hwf n]

end Sys2Proof.Machine
end

