-- ==== Sys2Proof/Laws/PerInstr.lean ====
section
/-!
SUPPORT. A statement about every instruction as syntax, one lemma per constructor: which fields of its word are fixed.
-/
namespace Sys2Proof.Laws.FixedFields

/-- The fixed fields of an instruction's word, as numbers: a command's RES field is zero (R64, R66); a bus record's RES
fields are zero, DIR is the direction of its register and OFF its offset (R69, R70), where the map's offsets fit OFF. -/
def Statement (i : Instr) : Prop :=
  ∀ p : Params, p.recordable = true →
    match Machine.busReg i with
    | none => (encode p i).toNat / 2 ^ 8 % 2 ^ 24 = 0
    | some r =>
      (encode p i).toNat / 2 ^ 17 % 2 ^ 15 = 0 ∧ (encode p i).toNat / 2 ^ 12 % 2 ^ 4 = 0 ∧
        (encode p i).toNat / 2 ^ 16 % 2 = (if regDir r = .write then 1 else 0) ∧
        (encode p i).toNat % 2 ^ 12 = regOffset p r

/-- A command word: its operand over a code of at most 8 bits. -/
theorem command_fields (opnd code : Word) (h : code.toNat < 256) : (pair opnd code).toNat / 2 ^ 8 % 2 ^ 24 = 0 := by
  rw [pair_toNat]
  omega

/-- A bus record on a register in its direction. -/
theorem record_fields {p : Params} (h : p.recordable = true) (r : Reg) (v : Word) :
    (busRecord (regDir r) (regOffset p r) v).toNat / 2 ^ 17 % 2 ^ 15 = 0 ∧
      (busRecord (regDir r) (regOffset p r) v).toNat / 2 ^ 12 % 2 ^ 4 = 0 ∧
      (busRecord (regDir r) (regOffset p r) v).toNat / 2 ^ 16 % 2 = (if regDir r = .write then 1 else 0) ∧
      (busRecord (regDir r) (regOffset p r) v).toNat % 2 ^ 12 = regOffset p r := by
  have ho := regOffset_lt h r
  rw [busRecord_toNat _ _ ho]
  split <;> omega

theorem read64 : Statement .read64 := fun _ _ => command_fields _ _ (by decide)

theorem arm (delta : Word) : Statement (.arm delta) := fun _ _ => command_fields _ _ (by decide)

theorem disable : Statement .disable := fun _ _ => command_fields _ _ (by decide)

theorem reset : Statement .reset := fun _ _ => command_fields _ _ (by decide)

theorem irqEntry : Statement .irqEntry := fun _ _ => command_fields _ _ (by decide)

theorem rdCntLo (data : Word) : Statement (.rdCntLo data) := fun _ h => record_fields h .cntLo data

theorem rdCntHi (data : Word) : Statement (.rdCntHi data) := fun _ h => record_fields h .cntHi data

theorem wrLoad (v : Word) : Statement (.wrLoad v) := fun _ h => record_fields h .load v

theorem wrCtrl (v : Word) : Statement (.wrCtrl v) := fun _ h => record_fields h .ctrl v

theorem wrRst20 (v : Word) : Statement (.wrRst20 v) := fun _ h => record_fields h .rst20 v

theorem wrRst24 (v : Word) : Statement (.wrRst24 v) := fun _ h => record_fields h .rst24 v

theorem wrRst2C (v : Word) : Statement (.wrRst2C v) := fun _ h => record_fields h .rst2C v

end Sys2Proof.Laws.FixedFields
end

