-- ==== Sys2Proof/Tests/Slice0.lean ====
section
/-!
SUPPORT. The model's own tests: the checks of WellFormed, words written out from the spec's encodings, single steps of
95_test_vectors.md, and a witness for the hypotheses of every statement that has some. An expected value is the spec's.
-/
namespace Sys2Proof.Tests

open Sys2Proof Sys2Proof.Machine

/-! ## Small states -/

/-- A booted block with the given countdown registers (after V-B1). -/
def booted (c : Countdown) : State :=
  { State.reset with
    mapped := true, handler := some 1, regCe := true, regCs := true, irqReq := true, timer := c }

/-- The countdown `[LOAD, CTRL, CUR, EN, PEND]` of the vectors. -/
def five (load ctrl cur : Word) (en pend : Bool) : Countdown :=
  { load := load, ctrl := ctrl, cur := cur, en := en, pend := pend }

/-- A block at power-on with a tick to come. -/
def powered : State := { State.reset with script := [.tick] }

/-- A stopped, booted block. -/
def idleBlock : State := booted (five 0#32 1#32 0#32 false false)

/-- A booted block whose countdown has just fired (2.8). -/
def firedBlock : State := booted (five 3#32 2#32 0#32 false true)

/-- EVENT at a step. -/
def State.atEvent (s : State) (st : EventStep) (d : Word) : State :=
  { s with event := { step := st, delta := d, issuer := .host } }

/-- IRQH at a step. -/
def State.atIrqh (s : State) (st : IrqStep) (answered : Bool) (ops : List DWord) : State :=
  { s with irqh := { step := st, active := true, pendingOps := ops, answered := answered, wait := none } }

/-- One READER. -/
def State.withReader (s : State) (st : ReaderStep) (hi1 : Word) : State :=
  { s with readers := [{ Reader.fresh with step := st, hi1 := hi1 }] }

/-- The state a move leads to, if there is one. -/
def nextOf (a : Answer) : Option State :=
  match a with
  | .next t => some t
  | .fault _ => none
  | .refused _ => none

/-- The countdown after a move. -/
def timerAfter (m : Move) (s : State) : Option Countdown := (nextOf (takeMove m s)).map State.timer

/-- The reason of the refusal a move is answered with. -/
def refusalAfter (m : Move) (s : State) : Option Reason := (nextOf (takeMove m s)).bind State.lastRefusal

/-- The last history entry after a move. -/
def lastAfter (m : Move) (s : State) : Option Event := (nextOf (takeMove m s)).bind (fun t => t.hist.getLast?)

/-- A bus record performed by an agent: the transaction's own meaning. -/
def perform (a : Agent) (w : DWord) (s : State) : Option State :=
  match decodeBus s.params w with
  | .ok i => nextOf (exec i { s with master := a })
  | .error _ => none

/-! ## WellFormed: each check refuses an ill-formed term (R10, R72) -/

theorem test_reference_parameters : Params.reference.wf = true := by decide

theorem test_misaligned_refused :
    { Params.reference with base := 0x1002 }.alignedOk = false ∧
      { Params.reference with cntLoOff := 2 }.alignedOk = false ∧
      { Params.reference with loadOff := 9 }.alignedOk = false ∧
      { Params.reference with ctrlOff := 13 }.alignedOk = false := by decide

theorem test_same_offset_refused :
    { Params.reference with loadOff := 4 }.distinctOk = false ∧
      { Params.reference with ctrlOff := 0x24 }.distinctOk = false := by decide

theorem test_small_region_refused : { Params.reference with regionSize := 0x2F }.regionOk = false := by decide

/-- An offset that a record's OFF field does not hold is no breach of R10. -/
theorem test_wide_offset :
    { Params.reference with loadOff := 4096, regionSize := 4100 }.wf = true ∧
      { Params.reference with loadOff := 4096 }.recordable = false ∧ Params.reference.recordable = true := by decide

theorem test_bad_masks_refused :
    { Params.reference with stop := 0#32 }.masksOk = false ∧ { Params.reference with run := 3#32 }.masksOk = false ∧
      { Params.reference with update := 2#32 }.masksOk = false := by decide

theorem test_stopped_clock_refused : { Params.reference with clockHz := 0 }.wf = false := by decide

theorem test_ctrl_value_refused :
    (Instr.wrCtrl 3#32).wf Params.reference = false ∧ (Instr.wrCtrl 6#32).wf Params.reference = true := by decide

/-! ## Decoding (2.1, 2.2; words written bit by bit from R64 and R69) -/

theorem test_decode_commands :
    decodeTableWord 64 0x0000000000000001 = some .read64 ∧
      decodeTableWord 64 0x0000000300000002 = some (.arm 3#32) ∧
      decodeTableWord 64 0x0000000000000003 = some .disable ∧
      decodeTableWord 64 0x0000000000000004 = some .reset ∧
      decodeTableWord 64 0x0000000000000005 = some .irqEntry := by decide

theorem test_decode_records :
    decodeTableWord 32 0x00000000 = some (.rdCntLo 0#32) ∧ decodeTableWord 32 0x00000004 = some (.rdCntHi 0#32) ∧
      decodeTableWord 32 0x00010008 = some (.wrLoad 0#32) ∧
      decodeTableWord 64 0x000000060001000C = some (.wrCtrl 6#32) ∧
      decodeTableWord 64 0x8000000000010020 = some (.wrRst20 0x80000000#32) ∧
      decodeTableWord 64 0x0000000100010024 = some (.wrRst24 1#32) ∧
      decodeTableWord 64 0x000000040001002C = some (.wrRst2C 4#32) := by decide

theorem test_decode_refuses :
    decodeCmd 0x0000000100000001#64 = .error .nonZeroOperand ∧ decodeCmd 0x0000000000000006#64 = .error .illegalOpcode ∧
      decodeCmd 0x0000000080000002#64 = .error .reservedCommandBits ∧
      decodeBus Params.reference 0x0000000700010000#64 = .error .badDirection ∧
      decodeBus Params.reference 0x0000000000010010#64 = .error .badOffset ∧
      decodeBus Params.reference 0x0000000000000002#64 = .error .misaligned ∧
      decodeBus Params.reference 0x0000000000020000#64 = .error .reservedRecordBits :=
  ⟨rfl, rfl, rfl, rfl, rfl, rfl, rfl⟩

/-- Eight bytes are consumed, the least significant first; seven are too few. -/
theorem test_decode_bytes :
    decodeBytes Params.reference .cmd [2#8, 0#8, 0#8, 0#8, 3#8, 0#8, 0#8, 0#8, 9#8] = .ok (.arm 3#32, [9#8]) ∧
      decodeBytes Params.reference .cmd [2#8, 0#8, 0#8, 0#8, 3#8, 0#8, 0#8] = .error .shortWord := ⟨rfl, rfl⟩

/-- The first step after power-on runs the word the host places: a command; a record that a sequence performs, at that
sequence's step; a record that none performs, as traffic from outside. -/
theorem test_step_runs_word :
    step (State.reset.withFetchWord 64 3) = exec .disable { State.reset with issuer := .host } ∧
      (nextOf (step (State.reset.withFetchWord 32 0x10008))).map State.hist = some [.bus .event .write 0x08 0#32] ∧
      (nextOf (step (State.reset.withFetchWord 32 0x00004))).map State.hist = some [.bus (.reader 0) .read 0x04 0#32] ∧
      (nextOf (step (State.reset.withFetchWord 64 0x40001002C))).map State.rst2C = some 4#32 ∧
      step (State.reset.withFetchWord 32 0x10024) = exec (.wrRst24 0#32) { State.reset with master := .host } :=
  ⟨rfl, by decide, by decide, by decide, rfl⟩

/-! ## Single steps (2.3 to 2.10) -/

theorem test_tick_carry_and_fire :
    nextOf (takeMove .tick { booted (five 0#32 2#32 1#32 true false) with cnt := 0xFFFFFFFFFFFFFFFF#64 }) =
      some { booted (five 0#32 2#32 0#32 false true) with hist := [.tick] } := by decide

theorem test_tick_counts :
    timerAfter .tick (booted (five 0#32 2#32 0xFFFFFFFF#32 true false)) = some (five 0#32 2#32 0xFFFFFFFE#32 true false) ∧
      timerAfter .tick (booted (five 0#32 2#32 0#32 true false)) = some (five 0#32 2#32 0#32 false true) ∧
      timerAfter .tick (booted (five 0#32 2#32 7#32 false false)) = some (five 0#32 2#32 7#32 false false) := by decide

theorem test_wrLoad :
    (perform .event 0x0000001100010008#64 (booted (five 9#32 2#32 4#32 true true))).map State.timer =
      some (five 0x11#32 2#32 4#32 true true) := by decide

theorem test_wrCtrl :
    (perform .event 0x000000010001000C#64 (booted (five 9#32 2#32 4#32 true true))).map State.timer =
        some (five 9#32 1#32 4#32 false false) ∧
      (perform .event 0x000000020001000C#64 (booted (five 9#32 1#32 4#32 true true))).map State.timer =
        some (five 9#32 2#32 9#32 true true) ∧
      (perform .event 0x000000040001000C#64 (booted (five 9#32 1#32 4#32 true true))).map State.timer =
        some (five 9#32 4#32 9#32 false true) ∧
      (perform .irqh 0x000000060001000C#64 (booted (five 9#32 1#32 4#32 false false))).map State.timer =
        some (five 9#32 6#32 9#32 true false) := by decide

theorem test_wrCtrl_reserved :
    (perform .event 0x000000030001000C#64 idleBlock).bind State.lastRefusal = some .reservedCtrlValue ∧
      (perform .event 0x000000000001000C#64 idleBlock).bind State.lastRefusal = some .reservedCtrlValue := by decide

theorem test_rdCntHi_wrong_agent : (perform .event 0x0000000500000004#64 idleBlock).bind State.lastRefusal =
    some .notOwner := by decide

theorem test_wrRst24_wrong_agent : (perform .event 0x0000000100010024#64 idleBlock).bind State.lastRefusal =
    some .notOwner := by decide

theorem test_rdCnt_halves :
    (perform (.reader 0) 0x0#64 { idleBlock with cnt := 0x00000005FFFFFFF0#64 }).bind (fun t => t.hist.getLast?) =
        some (.bus (.reader 0) .read 0 0xFFFFFFF0#32) ∧
      (perform (.reader 0) 0x4#64 { idleBlock with cnt := 0x00000005FFFFFFF0#64 }).bind (fun t => t.hist.getLast?) =
        some (.bus (.reader 0) .read 4 5#32) := by decide

theorem test_wrRst :
    ((perform .rst 0x8000000000010020#64 idleBlock).map State.rst20 = some 0x80000000#32) ∧
      ((perform .rst 0x000000040001002C#64 idleBlock).map State.rst2C = some 4#32) := by decide

/-- R80: the same record from outside the sequences is refused, in whichever agent's name, and in the middle of a sequence
that performs it too. -/
theorem test_outside_traffic :
    refusalAfter (.bus .event 0x0000000500010008#64) (State.atEvent idleBlock .a3 5#32) = some .notOwner ∧
      refusalAfter (.bus .event 0x000000030001000C#64) idleBlock = some .reservedCtrlValue ∧
      refusalAfter (.bus (.reader 7) 0x0#64) idleBlock = some .notOwner ∧
      refusalAfter (.access .rst .write 0x1024 4 1#32) { idleBlock with rst := .s2 } = some .notOwner := by decide

/-- V-RD4's fourth read ends the READ64 with the new pair (R99, R100). -/
theorem test_read64_four_reads :
    lastAfter (.reader 0)
        { State.withReader idleBlock .s4 7#32 with
          cnt := 0x0000000800000000#64, readers := [{ step := .s4, hi1 := 7#32, lo := 0xFFFFFFFE#32, hi2 := 8#32, hi := 8#32 }] } =
      some (.ret (.reader 0) (.value 0x0000000800000000#64)) := by decide

/-- V-RD11. -/
theorem test_read64_unmapped : refusalAfter (.host 1#64) State.reset = some .unmappedAccess := by decide

/-- V-A4 and V-A6. -/
theorem test_arm_zero :
    refusalAfter (.host 2#64) idleBlock = some .armZeroDelta ∧
      lastAfter (.host 2#64) State.reset = some (.ret .event .errUnavailable) := by decide

/-- ARM's A2 from V-A8: RUN|UPDATE latches the guard. -/
theorem test_arm_a2 :
    timerAfter .event (State.atEvent (booted (five 0xFFFFFFFF#32 2#32 0#32 false true)) .a2 10#32) =
      some (five 0xFFFFFFFF#32 6#32 0xFFFFFFFF#32 true true) := by decide

/-- V-D5, and V-A11 as a fault that is recorded. -/
theorem test_disable_unmapped_and_busy :
    refusalAfter (.host 3#64) State.reset = some .unmappedAccess ∧
      (nextOf (takeMove (.host 3#64) (State.atIrqh firedBlock .h2 false []))).map State.faults = some [.eventPathRace] := by
  decide

/-- V-D2's D2: STOP clears PEND and returns UNIT. -/
theorem test_disable_d2 :
    timerAfter .event (State.atEvent (booted (five 3#32 4#32 3#32 false true)) .d2 0#32) =
        some (five 3#32 1#32 3#32 false false) ∧
      lastAfter .event (State.atEvent (booted (five 3#32 4#32 3#32 false true)) .d2 0#32) =
        some (.ret .event .unit) := by decide

/-- R68 and V-I7. -/
theorem test_irqEntry_refused :
    refusalAfter (.host 5#64) firedBlock = some .commandNotIssuable ∧
      refusalAfter .irq { firedBlock with handler := none } = some .irqWithoutHandler := by decide

/-- The table of 2.8: the line, an active handler, a busy EVENT. -/
theorem test_irqEntry_enabled :
    enabled .irq firedBlock = true ∧ enabled .irq idleBlock = false ∧
      enabled .irq { idleBlock with params := { Params.reference with spuriousIrq := true } } = true ∧
      enabled .irq (State.atEvent firedBlock .a2 1#32) = false ∧
      enabled .irq (State.atIrqh firedBlock .cb false []) = false ∧
      enabled .irq { firedBlock with irqReq := false } = false := by decide

/-- V-R2 and V-R4. -/
theorem test_reset_unmapped_and_halted :
    lastAfter (.host 4#64) State.reset = some (.ret .rst .unit) ∧
      refusalAfter (.host 4#64) { idleBlock with rst := .halted } = some .resetReentered := by decide

/-- S4 step 3, and V-R8: no step at HALTED. -/
theorem test_reset_third_write :
    lastAfter .rst { idleBlock with rst := .s3 } = some (.bus .rst .write 0x20 0x80000000#32) ∧
      takeMove .rst { idleBlock with rst := .halted } = .fault .stuckHalted := ⟨by decide, rfl⟩

/-- V-I6. -/
theorem test_callback_reset_refused :
    refusalAfter .irqh (State.atIrqh firedBlock .cb true [4#64]) = some .callbackOpNotAllowed := by decide

/-- V-B2 and V-B3. -/
theorem test_boot :
    refusalAfter (.boot (.ok 1)) idleBlock = some .bootRepeated ∧
      nextOf (takeMove (.boot .configError) State.reset) = some State.reset := by decide

/-- R162's steps 4 to 6. -/
theorem test_registrations :
    idleBlock.eventDevice.map EventDeviceState.setNextEvent = some .arm ∧
      idleBlock.counterSource.map CounterSourceState.read = some .read64 ∧
      idleBlock.interruptRegistration.map InterruptRegistration.entry = some .irqEntry ∧
      State.reset.eventDevice = none := by decide

/-- R10 and R143: the refusal is recorded, and nothing else happens. -/
theorem test_bad_parameters :
    nextOf (step { powered with params := { Params.reference with run := 3#32 } }) =
      some { powered with
        params := { Params.reference with run := 3#32 }, refused := true, lastRefusal := some .badParameters } := by decide

/-- R33: a READER at DONE ends at IDLE without a record, and has no step after that. -/
theorem test_reader_ends :
    (nextOf (takeMove (.reader 0) (State.withReader idleBlock .done 7#32))) = some (State.withReader idleBlock .idle 7#32) ∧
      enabled (.reader 0) (State.withReader idleBlock .idle 7#32) = false := by decide

/-- R180: a faulted state is no end; a READER at DONE has not ended. -/
theorem test_end_of_run :
    idleBlock.endOfRun = true ∧ { idleBlock with faults := [.eventPathRace] }.endOfRun = false ∧
      { idleBlock with refused := true }.endOfRun = true ∧ { idleBlock with refused := true }.goodEnd = false ∧
      (State.withReader idleBlock .done 0#32).endOfRun = false ∧ { idleBlock with rst := .halted }.endOfRun = false := by
  decide

/-! ## Witnesses: the hypotheses of each statement can be met -/

/-- A state and a move that are taken: the hypotheses "takeMove m s = next t". -/
theorem witness_taken (m : Move) (s : State) (h : (nextOf (takeMove m s)).isSome = true) :
    ∃ t, takeMove m s = .next t := by
  unfold nextOf at h
  cases hm : takeMove m s with
  | next t => exact ⟨t, rfl⟩
  | fault f => rw [hm] at h; cases h
  | refused r => rw [hm] at h; cases h

theorem witness_DecodeEncodeAgree :
    Params.reference.wf = true ∧ (Instr.wrCtrl 0#32).format = .bus ∧ Params.reference.recordable = true := by decide

theorem witness_EncodeDecodeAgree :
    decodeWord Params.reference .cmd 0xFFFFFFFF00000002#64 = .ok (.arm 0xFFFFFFFF#32) ∧
      decodeWord Params.reference .bus 0xFFFFFFFF0001002C#64 = .ok (.wrRst2C 0xFFFFFFFF#32) := ⟨rfl, rfl⟩

/-- One word for each clause, at the ends of the reserved fields, beside the highest listed offset, and a fifth value. -/
theorem witness_BadRecordsRefused :
    State.reset.params.wf = true ∧ (0x20000#64).toNat / 2 ^ 17 % 2 ^ 15 ≠ 0 ∧ (0x80000000#64).toNat / 2 ^ 17 % 2 ^ 15 ≠ 0 ∧
      (0x1000#64).toNat / 2 ^ 12 % 2 ^ 4 ≠ 0 ∧ (0x8000#64).toNat / 2 ^ 12 % 2 ^ 4 ≠ 0 ∧
      ((0x8#64).toNat / 2 ^ 16 % 2 = 0 ∧ (0x8#64).toNat % 2 ^ 12 ≠ State.reset.params.cntLoOff ∧
        (0x8#64).toNat % 2 ^ 12 ≠ State.reset.params.cntLoOff + 4) ∧
      ((0x10030#64).toNat / 2 ^ 16 % 2 = 1 ∧ (0x10030#64).toNat % 2 ^ 12 ∉
        [State.reset.params.loadOff, State.reset.params.ctrlOff, 0x20, 0x24, 0x2C]) ∧
      ((0x30001000C#64).toNat / 2 ^ 16 % 2 = 1 ∧ (0x30001000C#64).toNat % 2 ^ 12 = State.reset.params.ctrlOff ∧
        (0x30001000C#64).toNat / 2 ^ 32 ∉ [State.reset.params.stop.toNat, State.reset.params.run.toNat,
          State.reset.params.update.toNat, (State.reset.params.run ||| State.reset.params.update).toNat]) := by decide

/-- HOST's word, the line's entry and a callback operation: a script for each, words that decode and words that do not. -/
theorem witness_StepRunsIssuedCommand :
    idleBlock.params.wf = true ∧ decodeCmd 1#64 = .ok .read64 ∧ decodeCmd 6#64 = .error .illegalOpcode ∧
      { idleBlock with script := [.host 1#64] }.script = [.host 1#64] ∧
      { firedBlock with script := [.irq] }.irqEnabled = true ∧
      (State.atIrqh firedBlock .cb true [1#64]).irqh.pendingOps = [1#64] ∧
      (State.atIrqh firedBlock .cb true [1#64]).irqh.wait = none := ⟨by decide, rfl, rfl, rfl, rfl, rfl, rfl⟩

theorem witness_StepRunsPresentedRecord :
    { idleBlock with script := [.bus .event 0x0000000500010008#64] }.params.wf = true ∧
      decodeBus idleBlock.params 0x0000000500010008#64 = .ok (.wrLoad 5#32) ∧
      decodeBus idleBlock.params 0x000000030001000C#64 = .ok (.wrCtrl 3#32) ∧
      (Instr.wrLoad 5#32).wf idleBlock.params = true ∧ (Instr.wrCtrl 3#32).wf idleBlock.params = false :=
  ⟨by decide, rfl, rfl, by decide, by decide⟩

/-- Each agent has a transaction next in some state, and exec answers it. -/
theorem witness_StepRunsSequencedTransaction :
    seqInstr (.reader 0) (State.withReader idleBlock .s2 0#32) = some (.rdCntLo 0#32) ∧
      seqInstr .event (State.atEvent idleBlock .a3 7#32) = some (.wrLoad 7#32) ∧
      seqInstr .irqh (State.atIrqh firedBlock .h1 false []) = some (.wrCtrl 4#32) ∧
      seqInstr .rst { idleBlock with rst := .s1 } = some (.wrRst2C 0#32) ∧
      (nextOf (exec (.wrLoad 7#32) { State.atEvent idleBlock .a3 7#32 with master := .event })).isSome = true := by decide

theorem witness_EmptyScriptTakesEnabledMove : State.reset.params.wf = true ∧ State.reset.script = [] := by decide

/-- A choice of parameters for each clause: for each mask no bit, and several bits. -/
theorem witness_BadParametersDoNotStart :
    { Params.reference with base := 1 }.base % 4 ≠ 0 ∧ { Params.reference with cntLoOff := 3 }.cntLoOff % 4 ≠ 0 ∧
      { Params.reference with loadOff := 9 }.loadOff % 4 ≠ 0 ∧ { Params.reference with ctrlOff := 14 }.ctrlOff % 4 ≠ 0 ∧
      ¬ { Params.reference with loadOff := 0x20 }.offsets.Nodup ∧
      (∃ o ∈ Params.reference.offsets, { Params.reference with regionSize := 0x2F }.regionSize < o + 4) ∧
      { Params.reference with stop := 2#32 }.stop = Params.reference.run ∧
      { Params.reference with stop := 4#32 }.stop = Params.reference.update ∧
      { Params.reference with run := 4#32 }.run = Params.reference.update ∧
      { Params.reference with clockHz := 0 }.clockHz = 0 := by decide

theorem witness_BadMasksDoNotStart :
    (∀ i < 32, { Params.reference with stop := 0#32 }.stop.toNat ≠ 2 ^ i) ∧
      (∀ i < 32, { Params.reference with stop := 0x80000001#32 }.stop.toNat ≠ 2 ^ i) ∧
      (∀ i < 32, { Params.reference with run := 0#32 }.run.toNat ≠ 2 ^ i) ∧
      (∀ i < 32, { Params.reference with run := 3#32 }.run.toNat ≠ 2 ^ i) ∧
      (∀ i < 32, { Params.reference with update := 0#32 }.update.toNat ≠ 2 ^ i) ∧
      (∀ i < 32, { Params.reference with update := 0xFFFFFFFF#32 }.update.toNat ≠ 2 ^ i) ∧
      ¬ (∀ i < 32, { Params.reference with stop := 0x80000000#32 }.stop.toNat ≠ 2 ^ i) := by decide

theorem witness_Read64CreatesReader : idleBlock.mapped = true ∧ State.reset.mapped = false := by decide

/-- A READER at each step, and the two ends of step 3. -/
theorem witness_ReaderStepsReadTestRead :
    idleBlock.params.wf = true ∧ idleBlock.mapped = true ∧
      (State.withReader idleBlock .s1 0#32).readers[0]?.map Reader.step = some .s1 ∧
      (State.withReader idleBlock .s2 0#32).readers[0]?.map Reader.step = some .s2 ∧
      (State.withReader idleBlock .s3 0#32).readers[0]?.map Reader.hi1 = some (hi32 idleBlock.cnt) ∧
      (State.withReader idleBlock .s3 1#32).readers[0]?.map Reader.hi1 ≠ some (hi32 idleBlock.cnt) ∧
      (State.withReader idleBlock .s4 0#32).readers[0]?.map Reader.step = some .s4 ∧
      (State.withReader idleBlock .done 0#32).readers[0]?.map Reader.step = some .done ∧
      (State.withReader idleBlock .idle 0#32).readers[0]?.map Reader.step = some .idle ∧
      ReaderStep.s1.inFlight = true ∧ ReaderStep.s4.inFlight = true := by decide

/-- A booted block with a counter value and READERs. -/
def readingBlock (cnt : DWord) (rs : List Reader) : State := { idleBlock with cnt := cnt, readers := rs }

/-- Equal highs up to the last tick before the carry, different highs from the carry on (S3). -/
theorem witness_Read64ResultAcrossTicks :
    (readingBlock 0x00000005FFFFFFF0#64 [Reader.fresh]).params.wf = true ∧
      (readingBlock 0x00000005FFFFFFF0#64 [Reader.fresh]).mapped = true ∧
      (readingBlock 0x00000005FFFFFFF0#64 [Reader.fresh]).readers[0]? = some Reader.fresh ∧ Reader.fresh.step = .s1 ∧
      hi32 (later (readingBlock 0x00000005FFFFFFF0#64 [Reader.fresh]).cnt 15) = hi32 0x00000005FFFFFFF0#64 ∧
      hi32 (later (readingBlock 0x00000005FFFFFFF0#64 [Reader.fresh]).cnt 16) ≠ hi32 0x00000005FFFFFFF0#64 := by decide

/-- One rollover and no more, in both paths, and the largest number of ticks that always meets that. -/
theorem witness_Read64IsExact :
    (readingBlock 1#64 [Reader.fresh]).params.wf = true ∧ (readingBlock 1#64 [Reader.fresh]).mapped = true ∧
      (readingBlock 1#64 [Reader.fresh]).readers[0]? = some Reader.fresh ∧ Reader.fresh.step = .s1 ∧
      highsDiffer (readingBlock 0#64 [Reader.fresh]).cnt (2 ^ 32 - 1) 0 = false ∧
      ((0#64).toNat + (2 ^ 32 - 1)) / 2 ^ 32 ≤ (0#64).toNat / 2 ^ 32 + 1 ∧
      highsDiffer (readingBlock 1#64 [Reader.fresh]).cnt (2 ^ 32 - 1) 0 = true ∧
      ((1#64).toNat + (2 ^ 32 - 1 + 0 + (2 ^ 32 - 1))) / 2 ^ 32 ≤ (1#64).toNat / 2 ^ 32 + 1 ∧ 2 ^ 32 - 1 < 2 ^ 32 := by
  decide

/-- Two READERs, and counts that end just below 2^64. -/
theorem witness_Read64IsMonotonic :
    (readingBlock 0xFFFFFFFFFFFFFFFE#64 [Reader.fresh, Reader.fresh]).params.wf = true ∧
      (readingBlock 0xFFFFFFFFFFFFFFFE#64 [Reader.fresh, Reader.fresh]).mapped = true ∧ (0 : Nat) ≠ 1 ∧
      (readingBlock 0xFFFFFFFFFFFFFFFE#64 [Reader.fresh, Reader.fresh]).readers[0]? = some Reader.fresh ∧
      (readingBlock 0xFFFFFFFFFFFFFFFE#64 [Reader.fresh, Reader.fresh]).readers[1]? = some Reader.fresh ∧
      Reader.fresh.step = .s1 ∧ 0 + 0 + 0 < 2 ^ 32 ∧
      (readingBlock 0xFFFFFFFFFFFFFFFE#64 [Reader.fresh, Reader.fresh]).cnt.toNat + 0 + 0 + 0 + 1 + 0 + 0 + 0 < 2 ^ 64 := by
  decide

/-- A READER whose first high read gave 7. -/
def seven : Reader := { Reader.fresh with step := .s3, hi1 := 7#32 }

/-- One rollover, and two, between the third and the fourth read (V-RD7). -/
theorem witness_Read64StaleByRollovers :
    (readingBlock 0x0000000800000000#64 [seven]).params.wf = true ∧
      (readingBlock 0x0000000800000000#64 [seven]).mapped = true ∧
      (readingBlock 0x0000000800000000#64 [seven]).readers[0]? = some seven ∧ seven.step = .s3 ∧
      seven.hi1 ≠ hi32 (readingBlock 0x0000000800000000#64 [seven]).cnt ∧
      (readingBlock 0x0000000800000000#64 [seven]).cnt.toNat + 2 ^ 32 < 2 ^ 64 ∧
      (readingBlock 0x0000000800000000#64 [seven]).cnt.toNat + 2 ^ 33 < 2 ^ 64 := by decide

theorem witness_ReadersUndisturbed :
    (∃ t, takeMove .event (State.atEvent (State.withReader idleBlock .s2 0#32) .d1 0#32) = .next t) ∧
      0 < (State.withReader idleBlock .s2 0#32).readers.length ∧
      (∃ t, takeMove (.reader 0) (State.withReader idleBlock .s2 0#32) = .next t) :=
  ⟨witness_taken _ _ (by decide), by decide, witness_taken _ _ (by decide)⟩

/-- The smallest and the largest delta. -/
theorem witness_ArmStarts :
    idleBlock.mapped = true ∧ 1#32 ≠ 0#32 ∧ 0xFFFFFFFF#32 ≠ 0#32 ∧ idleBlock.event.step = .idle ∧
      idleBlock.irqh.step ≠ .h1 ∧ idleBlock.irqh.step ≠ .h2 := by decide

theorem witness_ArmChecksInOrder :
    State.reset.mapped = false ∧ idleBlock.mapped = true ∧
      ((State.atEvent idleBlock .a1 4#32).mapped = true ∧ 2#32 ≠ 0#32 ∧
        (State.atEvent idleBlock .a1 4#32).eventBusy = true) := by decide

/-- Before ARM; and EVENT at each of its steps. -/
theorem witness_ArmWritesExactlyFour :
    (State.atEvent firedBlock .a1 1#32).event.step = .a1 ∧ (State.atEvent firedBlock .a2 1#32).event.step = .a2 ∧
      (State.atEvent firedBlock .a3 1#32).event.step = .a3 ∧ (State.atEvent firedBlock .a4 1#32).event.step = .a4 ∧
      (State.atEvent firedBlock .a4 1#32).mapped = true ∧
    idleBlock.params.wf = true ∧ idleBlock.mapped = true ∧ 1#32 ≠ 0#32 ∧ idleBlock.eventBusy = false := by decide

/-- The largest number of ticks under the guard (R119), and the smallest, with the smallest delta. -/
theorem witness_ArmEffectUnderRef :
    Params.reference.wf = true ∧ Params.reference.policy = .ref ∧ 0xFFFFFFFE + 0 < 0xFFFFFFFF ∧ 0 + 0 < 0xFFFFFFFF ∧
      1#32 ≠ 0#32 := by
  decide

theorem witness_ArmFiresAfterDeltaTicks :
    idleBlock.params.wf = true ∧ idleBlock.params.policy = .ref ∧ idleBlock.mapped = true ∧ 1#32 ≠ 0#32 ∧
      idleBlock.eventBusy = false ∧ idleBlock.timer.pend = false := by decide

theorem witness_DisableStarts :
    (idleBlock.mapped = true ∧ idleBlock.eventBusy = false) ∧ State.reset.mapped = false ∧
      ((State.atIrqh firedBlock .h2 false []).mapped = true ∧ (State.atIrqh firedBlock .h2 false []).eventBusy = true) := by
  decide

theorem witness_DisableHaltsAndClears :
    (State.atEvent firedBlock .d1 1#32).event.step = .d1 ∧ (State.atEvent firedBlock .d2 1#32).event.step = .d2 ∧
      (State.atEvent firedBlock .d2 1#32).mapped = true ∧
    firedBlock.params.wf = true ∧ firedBlock.params.policy = .ref ∧ firedBlock.mapped = true ∧
      firedBlock.eventBusy = false := by decide

/-- Each of the three ways to be busy. -/
theorem witness_EventPathRaceRecorded :
    idleBlock.mapped = true ∧ (State.atEvent idleBlock .d2 0#32).event.step ≠ .idle ∧
      (State.atIrqh firedBlock .h1 false []).irqh.step = .h1 ∧ (State.atIrqh firedBlock .h2 false []).irqh.step = .h2 := by
  decide

/-- O1's hypotheses with a load and ticks after A4, and the tick before and at the N-th. -/
theorem witness_RefFiresOnExactlyTheNthTick :
    Params.reference.wf = true ∧ Params.reference.policy = .ref ∧ 2#32 ≠ 0#32 ∧
      (timerRun Params.reference (armToA4 (masksOf Params.reference) 2#32 0 1 0) (five 0#32 1#32 0#32 false false)).pend = false ∧
      [TimerOp.tick, .load 9#32].all TimerOp.notCtrl = true ∧ ¬ (2#32).toNat ≤ tickCount [.tick, .load 9#32] ∧
      [TimerOp.tick, .load 9#32, .tick].all TimerOp.notCtrl = true ∧
      (2#32).toNat ≤ tickCount [.tick, .load 9#32, .tick] := by decide

theorem witness_RefDisableObligations :
    Params.reference.wf = true ∧ Params.reference.policy = .ref ∧
      [TimerOp.tick, .load 9#32, .ctrl 4#32, .ctrl 1#32].all (TimerOp.notRun (masksOf Params.reference)) = true ∧
      (five 7#32 1#32 7#32 false false).en = false ∧ (five 7#32 1#32 7#32 false false).pend = false := by decide

/-- O4's two deltas; O5's window cut before A2, with a tick before it, and after A2. -/
theorem witness_RefGuardObligations :
    Params.reference.wf = true ∧ Params.reference.policy = .ref ∧ 1#32 ≠ 0#32 ∧ 0xF0000000#32 ≠ 0#32 ∧
      0xFFFFFFFE + 0 < 0xFFFFFFFF ∧ (five 0#32 1#32 0#32 false false).pend = false ∧
      guardWindow (masksOf Params.reference) 5#32 1 0 = [] ++ [.ctrl 6#32] ++ [.tick, .load 5#32] ∧
      (timerRun Params.reference (armToA2 1 ++ []) (five 0#32 2#32 2#32 true false)).pend = false ∧
      guardWindow (masksOf Params.reference) 5#32 1 0 = [.ctrl 6#32] ++ [.tick, .load 5#32] ++ [] ∧
      (timerRun Params.reference (armToA2 0 ++ [.ctrl 6#32]) (five 0#32 1#32 0#32 false false)).pend = false := by
  decide

/-- A policy whose RUN|UPDATE write with PEND set clears it and latches 1. Its first tick after A2 fires, so it does
not meet O5. -/
def clearingPolicy (m : Masks) : Policy :=
  { refPolicy m with
    ctrlWrite := fun v c =>
      if v = m.run ||| m.update ∧ c.pend = true then { c with cur := 1#32, en := true, pend := false }
      else refCtrlWrite m v c }

theorem test_clearing_policy_breaks_o5 : ¬ (clearingPolicy (masksOf Params.reference)).MeetsO5 (masksOf Params.reference) :=
  fun h => absurd
    (h (five 0#32 0#32 0#32 false true) 1#32 0 1 0 [.ctrl 6#32] [.tick] [.load 1#32] (by decide) (by decide) (by decide)
      (by decide))
    (by decide)

/-- The countdown at 1 and at 0, with a STOP after the fire and without one. -/
theorem witness_CountdownIsOneShot :
    Params.reference.wf = true ∧ Params.reference.policy = .ref ∧ (five 0#32 2#32 1#32 true false).en = true ∧
      (five 0#32 2#32 1#32 true false).cur.toNat ≤ 1 ∧ (five 0#32 2#32 0#32 true false).cur.toNat ≤ 1 ∧
      [TimerOp.tick, .ctrl 4#32].all (TimerOp.notRun (masksOf Params.reference)) = true ∧
      .ctrl Params.reference.stop ∉ [TimerOp.tick, .ctrl 4#32] := by decide

theorem witness_IrqEntryTakesInterrupt :
    { firedBlock with issuer := .irqh }.issuer = .irqh ∧ firedBlock.irqh.step ≠ .cb ∧
      { firedBlock with issuer := .irqh }.irqEnabled = true ∧ firedBlock.mapped = true ∧ firedBlock.handler.isSome = true ∧
      { firedBlock with handler := none, issuer := .irqh }.irqEnabled = true := by decide

theorem witness_IrqEntryNotIssuable :
    firedBlock.issuer = .host ∧
      { State.atIrqh firedBlock .cb true [] with issuer := .irqh }.issuer = .irqh ∧
      (State.atIrqh firedBlock .cb true []).irqh.step = .cb := by decide

theorem witness_HandlerDisablesAndReturns :
    (State.atIrqh firedBlock .h1 false []).irqh.step = .h1 ∧ (State.atIrqh firedBlock .h2 false []).irqh.step = .h2 ∧
      (State.atIrqh firedBlock .ret false []).irqh.step = .ret ∧ (State.atIrqh firedBlock .h2 false []).mapped = true ∧
    firedBlock.params.wf = true ∧ firedBlock.params.policy = .ref ∧ firedBlock.mapped = true ∧
      firedBlock.irqEnabled = true ∧ firedBlock.irqh.step = .idle ∧ firedBlock.handler.isSome = true := by decide

/-- A block whose handler is at step RET, and its next move. -/
def returning : State := { State.atIrqh firedBlock .ret false [] with script := [.irqh] }

theorem returning_inv : returning.Inv where
  unmappedIdle := by decide
  activeIff := by decide
  handlerSet := by decide
  bootHandler := by decide
  refusedReason := by decide
  faultsNodup := by decide
  deltaNonzero := by decide
  eventPathExclusive := by decide
  callbackOnlyAtCb := by decide
  nothingBeforeAnswer := by decide
  waitOk := trivial

/-- The invariant holds with the interrupt requested, and without a handler the entry is enabled all the same. -/
theorem witness_IrqEntryEnabledExactly :
    returning.Inv ∧ returning.irqReq = true ∧ { firedBlock with handler := none }.irqh.step = .idle ∧
      { firedBlock with handler := none }.mapped = true ∧ enabled .irq { firedBlock with handler := none } = true :=
  ⟨returning_inv, rfl, rfl, rfl, by decide⟩

/-- The handler at RET, taking the tick (still active) and its own step (the return). -/
theorem witness_HandlerDoesNotNest :
    returning.Inv ∧ returning.irqh.active = true ∧
      (∃ t, takeMove .tick returning = .next t) ∧
      (∃ t, takeMove .irqh returning = .next t) :=
  ⟨returning_inv, rfl, witness_taken _ _ (by decide), witness_taken _ _ (by decide)⟩

theorem witness_ResetStarts :
    idleBlock.issuer = .host ∧ (idleBlock.mapped = true ∧ idleBlock.rst = .idle) ∧ State.reset.mapped = false ∧
      { idleBlock with rst := .s1 }.rst ≠ .idle ∧ { idleBlock with rst := .halted }.rst ≠ .idle := by decide

theorem witness_ResetWritesExactlyFive :
    { idleBlock with rst := .s1 }.rst = .s1 ∧ { idleBlock with rst := .s2 }.rst = .s2 ∧
      { idleBlock with rst := .s3 }.rst = .s3 ∧ { idleBlock with rst := .s4 }.rst = .s4 ∧
      { idleBlock with rst := .s5 }.rst = .s5 ∧ { idleBlock with rst := .s5 }.mapped = true ∧
    idleBlock.params.wf = true ∧ idleBlock.mapped = true ∧ idleBlock.rst = .idle := by decide

theorem witness_HaltedLeftOnlyBySystemReset :
    ({ idleBlock with rst := .s5 }.rst = .s5 ∧ { idleBlock with rst := .s5 }.mapped = true) ∧
      { idleBlock with rst := .halted }.rst = .halted ∧
      (∃ t, takeMove .tick { idleBlock with rst := .halted } = .next t) := ⟨⟨rfl, rfl⟩, rfl, _, rfl⟩

theorem witness_SystemResetEffect : { idleBlock with rst := .halted }.rst = .halted := rfl

/-- The carry, and the tick before it. -/
theorem witness_CarryInOneTick :
    (lo32 0x00000000FFFFFFFF#64).toNat = 2 ^ 32 - 1 ∧ (lo32 0x00000000FFFFFFFE#64).toNat ≠ 2 ^ 32 - 1 ∧
      (∃ t, takeMove .tick { idleBlock with cnt := 0x00000000FFFFFFFF#64 } = .next t) ∧
      (∃ t, takeMove .tick { idleBlock with cnt := 0x00000000FFFFFFFE#64 } = .next t) :=
  ⟨by decide, by decide, ⟨_, rfl⟩, _, rfl⟩

/-- Stopped, at 0 and 1, at 2. -/
theorem witness_RefTickCountsDown :
    Params.reference.policy = .ref ∧ (five 0#32 0#32 7#32 false false).en = false ∧
      ((five 0#32 0#32 0#32 true false).en = true ∧ (five 0#32 0#32 0#32 true false).cur.toNat ≤ 1) ∧
      (five 0#32 0#32 1#32 true false).cur.toNat ≤ 1 ∧ 1 < (five 0#32 0#32 2#32 true false).cur.toNat := by decide

theorem witness_CounterHalvesRead :
    idleBlock.params.wf = true ∧ idleBlock.params.recordable = true ∧ idleBlock.mapped = true ∧ { idleBlock with master := .reader 0 }.master = .reader 0 ∧
      (∀ k, { idleBlock with master := .event }.master ≠ .reader k) ∧ State.reset.mapped = false :=
  ⟨by decide, by decide, rfl, rfl, (fun _ h => Agent.noConfusion h), rfl⟩

theorem witness_LoadWritten :
    idleBlock.params.wf = true ∧ idleBlock.params.recordable = true ∧ idleBlock.mapped = true ∧ { idleBlock with master := .event }.master = .event ∧
      { idleBlock with master := .irqh }.master = .irqh ∧ idleBlock.params.policy = .ref ∧
      ({ idleBlock with master := .rst }.master ≠ .event ∧ { idleBlock with master := .rst }.master ≠ .irqh) ∧
      State.reset.mapped = false := by decide

/-- Each of the four values; then 0, a sum of two other masks, and a bit of its own (2.2). -/
theorem witness_CtrlWritten :
    idleBlock.params.wf = true ∧ idleBlock.params.recordable = true ∧ idleBlock.mapped = true ∧ { idleBlock with master := .irqh }.master = .irqh ∧
      1#32 = idleBlock.params.stop ∧ 2#32 = idleBlock.params.run ∧ 4#32 = idleBlock.params.update ∧
      6#32 = idleBlock.params.run ||| idleBlock.params.update ∧ idleBlock.params.policy = .ref ∧
      { idleBlock with master := .rst }.master ≠ .irqh ∧ State.reset.mapped = false ∧
      idleBlock.params.ctrlValues.contains 0#32 = false ∧ idleBlock.params.ctrlValues.contains 3#32 = false ∧
      idleBlock.params.ctrlValues.contains 8#32 = false := by decide

theorem witness_ResetRegistersWritten :
    idleBlock.params.wf = true ∧ idleBlock.mapped = true ∧ { idleBlock with master := .rst }.master = .rst ∧
      { idleBlock with master := .event }.master ≠ .rst ∧ State.reset.mapped = false := by decide

/-- A move that records a transaction; a transaction from an agent not permitted, and one from a permitted agent of an unmapped block. -/
theorem witness_OnlyOwnersTransact :
    (nextOf (takeMove .event (State.atEvent idleBlock .a3 5#32))).map State.hist =
        some (idleBlock.hist ++ [.bus .event .write 0x08 5#32]) ∧
    busReg (.wrRst24 1#32) = some .rst24 ∧ (Instr.wrRst24 1#32).wf State.reset.params = true ∧
      { State.reset with master := .event }.master ≠ .rst ∧ permitted .rst24 { State.reset with master := .rst }.master = true ∧
      State.reset.mapped = false := by decide

/-- Step CB before the answer, waiting, with an empty answer, and with each operation next. -/
theorem witness_CallbackIssuesAndWaits :
    (State.atIrqh firedBlock .cb false []).irqh.step = .cb ∧ (State.atIrqh firedBlock .cb false []).irqh.answered = false ∧
      (State.atIrqh firedBlock .cb true []).irqh.answered = true ∧ (State.atIrqh firedBlock .cb true []).irqh.wait = none ∧
      encode firedBlock.params .read64 = 1#64 ∧ encode firedBlock.params (.arm 3#32) = 0x0000000300000002#64 ∧
      encode firedBlock.params .disable = 3#64 ∧
      (State.atIrqh firedBlock .cb true [encode firedBlock.params (.arm 3#32)]).event.step = .idle := by decide

/-- IRQH waiting for EVENT, whose last step ends the wait. -/
def waiting (st : EventStep) : State :=
  { firedBlock with
    event := { step := st, delta := 3#32, issuer := .irqh }
    irqh := { step := .cb, active := true, pendingOps := [], answered := true, wait := some .event } }

theorem witness_CallbackWaitEnds :
    (waiting .a3).irqh.wait = some .event ∧ (∃ t, takeMove .event (waiting .a3) = .next t) ∧
      (∃ t, takeMove .event (waiting .a4) = .next t) :=
  ⟨rfl, witness_taken _ _ (by decide), witness_taken _ _ (by decide)⟩

/-- IRQH waiting for a READER, whose last read ends the wait and whose read before it does not. -/
def waitingForReader (st : ReaderStep) : State :=
  { State.withReader firedBlock st 0#32 with
    irqh := { step := .cb, active := true, pendingOps := [], answered := true, wait := some (.reader 0) } }

theorem witness_CallbackWaitForReaderEnds :
    (waitingForReader .s2).irqh.wait = some (.reader 0) ∧ (∃ t, takeMove (.reader 0) (waitingForReader .s2) = .next t) ∧
      (∃ t, takeMove (.reader 0) (waitingForReader .s3) = .next t) ∧
      (nextOf (takeMove (.reader 0) (waitingForReader .s2))).map (fun t => t.irqh.wait) = some (some (.reader 0)) ∧
      (nextOf (takeMove (.reader 0) (waitingForReader .s3))).map (fun t => t.irqh.wait) = some none :=
  ⟨rfl, witness_taken _ _ (by decide), witness_taken _ _ (by decide), by decide, by decide⟩

/-- One access for each clause. -/
theorem witness_BadAccessesRefused :
    idleBlock.params.wf = true ∧ (8 : Nat) ≠ 4 ∧ 0x1001 % 4 ≠ 0 ∧ 0x0FFC < idleBlock.params.base ∧
      (∀ r : Reg, 0x1030 ≠ regAddr idleBlock.params r) ∧
      (∃ r : Reg, 0x1000 = regAddr idleBlock.params r ∧ .write ≠ regDir r) :=
  ⟨by decide, by decide, by decide, by decide, fun r => by cases r <;> decide, .cntLo, by decide, by decide⟩

theorem witness_GoodAccessNamesTransactionButRefused : idleBlock.params.wf = true := by decide

/-- A store, a read and a refused transaction that answer a next state. -/
theorem witness_TransactionFrame :
    idleBlock.params.wf = true ∧ idleBlock.params.policy = .ref ∧
      storeAddr idleBlock.params (.wrLoad 5#32) = some 0x1008 ∧ storeAddr idleBlock.params (.rdCntLo 0#32) = none ∧
      (nextOf (exec (.wrLoad 5#32) { idleBlock with master := .event })).isSome = true ∧
      (nextOf (exec (.rdCntLo 0#32) { idleBlock with master := .reader 0 })).isSome = true ∧
      (nextOf (exec (.wrCtrl 2#32) idleBlock)).isSome = true := by decide

theorem witness_CommandFrame :
    (Instr.read64).format = .cmd ∧ (nextOf (exec .read64 idleBlock)).isSome = true ∧
      (nextOf (exec (.arm 3#32) idleBlock)).isSome = true ∧ (nextOf (exec .disable idleBlock)).isSome = true ∧
      (nextOf (exec .reset idleBlock)).isSome = true ∧ (nextOf (exec .irqEntry idleBlock)).isSome = true := by decide

/-- V-B1's power-on draws. -/
def powerOn : State := { State.reset with timer := five 0x55#32 6#32 1#32 true true }

theorem powerOn_inv : powerOn.Inv where
  unmappedIdle := by decide
  activeIff := by decide
  handlerSet := by decide
  bootHandler := by decide
  refusedReason := by decide
  faultsNodup := by decide
  deltaNonzero := by decide
  eventPathExclusive := by decide
  callbackOnlyAtCb := by decide
  nothingBeforeAnswer := by decide
  waitOk := trivial

theorem witness_BootStopsAndRegisters :
    powerOn.params.wf = true ∧ powerOn.params.policy = .ref ∧ powerOn.mapped = false ∧ powerOn.Inv :=
  ⟨by decide, by decide, by decide, powerOn_inv⟩

theorem witness_BootAbortsOrRefuses : powerOn.mapped = false ∧ idleBlock.mapped = true := by decide

/-- A step from a state that meets the invariant, for the statements about every step. -/
theorem witness_EveryStepKeepsInvariant :
    returning.Inv ∧
      ∃ t, step returning = .next t :=
  ⟨returning_inv, _, rfl⟩

theorem witness_HistoryAndMarksOnlyGrow :
    ∃ t, step { powerOn with script := [.host 0#64], faults := [.eventPathRace], refused := true } = .next t := ⟨_, rfl⟩

/-- A fire, and a STOP write that clears it. -/
theorem witness_PendSetByFireClearedByStop :
    idleBlock.params.wf = true ∧ idleBlock.params.policy = .ref ∧
      timerAfter .tick (booted (five 3#32 2#32 1#32 true false)) = some (five 3#32 2#32 0#32 false true) ∧
      (timerAfter .event (State.atEvent firedBlock .d2 0#32)).map Countdown.pend = some false := by decide

theorem witness_CounterChangesOnlyAtTick :
    (∃ t, takeMove .tick idleBlock = .next t) ∧ (∃ t, takeMove .sysreset { idleBlock with rst := .halted } = .next t) :=
  ⟨⟨_, rfl⟩, _, rfl⟩

/-! ## A weakly fair execution (R179) -/

/-- The moves of a list, and ticks for ever after. -/
def schedule (ms : List Move) (n : Nat) : Move := (ms[n]?).getD .tick

/-- The states those moves lead to. -/
def statesOf (ms : List Move) (s : State) : Nat → State
  | 0 => s
  | n + 1 => (nextOf (takeMove (schedule ms n) (statesOf ms s n))).getD (statesOf ms s n)

/-- Nobody but TICK has a step of its own. -/
def settled (s : State) : Bool :=
  s.readersIdle && decide (s.event.step = .idle) && decide (s.irqh.step = .idle) && decide (s.rst = .halted) &&
    decide (s.boot = .idle) && !s.irqReq

theorem settled_tick {s : State} (h : settled s = true) : settled s.tick = true := h

theorem settled_none {s : State} (h : settled s = true) {a : Agent} (ha : a ≠ .tick) : ¬ agentEnabled a s := by
  simp only [settled, Bool.and_eq_true, decide_eq_true_eq, Bool.not_eq_true'] at h
  obtain ⟨⟨⟨⟨⟨hr, he⟩, hi⟩, hh⟩, hb⟩, hq⟩ := h
  rintro ⟨m, hm, en⟩
  cases m <;> simp [stepOf] at hm <;> simp [enabled, seqInstr, eventInstr, rstInstr, bootEnabled, State.irqEnabled, *] at en
  case tick => exact ha hm.symm
  case reader k =>
    simp only [State.readersIdle, List.all_eq_true, decide_eq_true_eq] at hr
    cases hk : s.readers[k]? with
    | none => simp [State.reader?, State.readerDone, hk] at en
    | some r =>
      have hrk := hr r (List.mem_of_getElem? hk)
      simp [State.reader?, State.readerDone, hk, Reader.nextInstr, hrk] at en

/-- A schedule whose moves are all taken and that leaves nobody but TICK a step is a weakly fair execution. -/
theorem fair_of_settled {ms : List Move} {s : State} (hw : s.params.wf = true)
    (ht : ∀ n, n < ms.length → (nextOf (takeMove (schedule ms n) (statesOf ms s n))).isSome = true)
    (hs : settled (statesOf ms s ms.length) = true) :
    Execution (statesOf ms s) (schedule ms) ∧ WeaklyFair (statesOf ms s) (schedule ms) := by
  have tick : ∀ n, ms.length ≤ n → schedule ms n = .tick := by
    intro n hn
    simp [schedule, List.getElem?_eq_none hn]
  have rest : ∀ d, settled (statesOf ms s (ms.length + d)) = true := by
    intro d
    induction d with
    | zero => exact hs
    | succ d ih =>
      show settled (statesOf ms s (ms.length + d + 1)) = true
      simp only [statesOf, tick (ms.length + d) (by omega)]
      exact settled_tick ih
  refine ⟨⟨hw, fun n => ⟨(statesOf ms s n).script, (statesOf ms s n).draws, ?_⟩⟩, fun a n hen => ?_⟩
  · show takeMove (schedule ms n) (statesOf ms s n) = .next (statesOf ms s (n + 1))
    by_cases hn : n < ms.length
    · obtain ⟨t, h⟩ := witness_taken _ _ (ht n hn)
      simp [statesOf, h, nextOf]
    · simp only [statesOf, tick n (by omega)]
      rfl
  · by_cases ha : a = .tick
    · exact ⟨ms.length + n, by omega, by rw [tick _ (by omega), ha]; rfl⟩
    · have h := hen (ms.length + n) (by omega)
      exact absurd h (settled_none (rest n) ha)

/-- READ64, an operation on EVENT, IRQ_ENTRY at step CB and RESET, all under way. -/
def allUnderWay (st : EventStep) : State :=
  { State.atIrqh (State.atEvent (State.withReader idleBlock .s1 0#32) st 5#32) .cb false [] with
    irqReq := false, rst := .s1 }

/-- Every one of them run to its end, the others' steps between. -/
def allMoves (ev : List Move) : List Move :=
  [.reader 0, .rst, .tick, .answer [], .reader 0, .rst, .irqh, .rst] ++ ev ++
    [.reader 0, .rst, .tick, .irqh, .rst, .reader 0]

theorem allUnderWay_inv (st : EventStep) : (allUnderWay st).Inv where
  unmappedIdle := by intro h; cases h
  activeIff := by simp [allUnderWay, State.atIrqh]
  handlerSet := by intro h; cases h
  bootHandler := by intro _; rfl
  refusedReason := rfl
  faultsNodup := by simp [allUnderWay, State.atIrqh, State.atEvent, State.withReader, idleBlock, booted, State.reset]
  deltaNonzero := by intro _; simp [allUnderWay, State.atIrqh, State.atEvent]
  eventPathExclusive := by intro _; simp [allUnderWay, State.atIrqh]
  callbackOnlyAtCb := by intro h; cases h
  nothingBeforeAnswer := by intro _; exact ⟨rfl, rfl⟩
  waitOk := trivial

/-- ARM under way with the rest. -/
theorem witness_FairOperationsComplete :
    let ms := allMoves [.event, .event, .event, .event]
    Execution (statesOf ms (allUnderWay .a1)) (schedule ms) ∧ WeaklyFair (statesOf ms (allUnderWay .a1)) (schedule ms) ∧
      (allUnderWay .a1).Inv ∧ (allUnderWay .a1).read64UnderWay 0 ∧ (allUnderWay .a1).armUnderWay ∧
      (allUnderWay .a1).irqEntryUnderWay ∧ (allUnderWay .a1).resetUnderWay := by
  have h := fair_of_settled (ms := allMoves [.event, .event, .event, .event]) (s := allUnderWay .a1) (by decide)
    (by decide) (by decide)
  exact ⟨h.1, h.2, allUnderWay_inv _, ⟨_, rfl, .inl rfl⟩, .inl rfl, by unfold State.irqEntryUnderWay; decide,
    by unfold State.resetUnderWay; decide⟩

/-- DISABLE under way with the rest. -/
theorem witness_FairDisableCompletes :
    let ms := allMoves [.event, .event]
    Execution (statesOf ms (allUnderWay .d1)) (schedule ms) ∧ WeaklyFair (statesOf ms (allUnderWay .d1)) (schedule ms) ∧
      (allUnderWay .d1).Inv ∧ (allUnderWay .d1).disableUnderWay := by
  have h := fair_of_settled (ms := allMoves [.event, .event]) (s := allUnderWay .d1) (by decide) (by decide) (by decide)
  exact ⟨h.1, h.2, allUnderWay_inv _, .inl rfl⟩

end Sys2Proof.Tests
end

section
/-!
PROOFS. The history and the marks only grow (R41, R42): growth as one preorder on states, kept by every effect a
command, a bus transaction, a sequence's advance and a move can have.
-/
namespace Sys2Proof.Machine

variable {s t u : State}

/-- Nothing recorded in `s` is lost in `t`: H is appended to (R41), FAULT keeps its members and REFUSED stays set (R42). -/
structure State.Grows (s t : State) : Prop where
  hist : s.hist <+: t.hist
  faults : s.faults ⊆ t.faults
  refused : s.refused = true → t.refused = true

namespace State.Grows

theorem trans (h : s.Grows t) (h' : t.Grows u) : s.Grows u :=
  ⟨h.hist.trans h'.hist, fun _ hf => h'.faults (h.faults hf), fun hr => h'.refused (h.refused hr)⟩

theorem of_unchanged (hist : t.hist = s.hist) (faults : t.faults = s.faults) (refused : t.refused = s.refused) :
    s.Grows t :=
  ⟨hist ▸ List.prefix_rfl, faults ▸ List.Subset.refl _, refused ▸ id⟩

/-- Growth is counted from any state that holds the same records. -/
theorem congr_left (h : u.Grows t) (hist : u.hist = s.hist) (faults : u.faults = s.faults)
    (refused : u.refused = s.refused) : s.Grows t :=
  trans (of_unchanged hist faults refused) h

theorem of_hist_append {es : List Event} (hist : t.hist = s.hist ++ es) (faults : t.faults = s.faults)
    (refused : t.refused = s.refused) : s.Grows t :=
  ⟨⟨es, hist.symm⟩, faults ▸ List.Subset.refl _, refused ▸ id⟩

end State.Grows

theorem State.grows_refuse (s : State) (r : Reason) : s.Grows (s.refuse r) :=
  ⟨List.prefix_rfl, List.Subset.refl _, fun _ => rfl⟩

/-- Marks that are as they were, or set, are not cleared. -/
theorem refused_of_marks
    (h : (t.refused = s.refused ∧ t.lastRefusal = s.lastRefusal) ∨ (t.refused = true ∧ t.lastRefusal.isSome = true)) :
    s.refused = true → t.refused = true := by
  obtain ⟨same, _⟩ | ⟨marked, _⟩ := h
  · exact same ▸ id
  · exact fun _ => marked

theorem IssueEffect.grows {i : Instr} (e : IssueEffect i s t) : s.Grows t := by
  obtain ⟨es, hist⟩ := e.hist_grows
  exact ⟨⟨es, hist.symm⟩, e.faults_sub, refused_of_marks e.marks⟩

theorem BusEffect.grows {i : Instr} (e : BusEffect i s t) : s.Grows t := by
  refine ⟨?_, e.faults_eq ▸ List.Subset.refl _, refused_of_marks e.marks⟩
  obtain ⟨_, hist⟩ | ⟨_, _, _, _, _, hist⟩ := e.hist_eq
  · exact hist ▸ List.prefix_rfl
  · exact ⟨_, hist.symm⟩

theorem seqAfter_grows (a : Agent) (s : State) : s.Grows (seqAfter a s) := by
  obtain hist | ⟨_, _, hist⟩ := seqAfter_hist a s
  · exact .of_unchanged hist (seqAfter_faults a s) (seqAfter_refused a s)
  · exact .of_hist_append hist (seqAfter_faults a s) (seqAfter_refused a s)

theorem MoveEffect.grows {m : Move} (e : MoveEffect m s t) : s.Grows t := by
  cases e
  case issue eff | bootDisable eff | callbackOp eff => exact eff.grows.congr_left rfl rfl rfl
  case sequenced a i v _ _ eff eq =>
    have transacted : s.Grows v := eff.grows.congr_left rfl rfl rfl
    rw [eq]
    split
    · exact transacted.trans (seqAfter_grows a v)
    · exact transacted
  case refused e eq | presented e _ eq | callbackBadWord e _ _ _ _ _ eq =>
    exact eq ▸ (State.grows_refuse _ e).congr_left rfl rfl rfl
  case tick eq | callback eq | returned eq | sysreset eq => exact eq ▸ .of_hist_append rfl rfl rfl
  case bootStart eq | bootAborted eq | bootCe eq | bootIrq eq | bootCs eq | bootDone eq | retired eq | callbackDone eq =>
    exact eq ▸ .of_unchanged rfl rfl rfl

theorem nextMove_grows (s : State) : s.Grows (nextMove s).2 := by
  rw [nextMove_state]
  exact .of_unchanged rfl rfl rfl

theorem step_grows (h : step s = .next t) : s.Grows t := by
  obtain ⟨_, _, eff⟩ | ⟨_, eq⟩ := step_effect h
  · exact (nextMove_grows s).trans eff.grows
  · exact eq ▸ s.grows_refuse .badParameters

/-- Settles O57, by the growth of the three records at every step. -/
theorem historyAndMarksOnlyGrow : Obligations.HistoryAndMarksOnlyGrow := by
  refine ⟨fun s t h => ?_, rfl, rfl, fun s t h => ⟨(step_grows h).faults, (step_grows h).refused⟩⟩
  obtain ⟨es, hist⟩ := (step_grows h).hist
  exact ⟨es, hist.symm⟩

end Sys2Proof.Machine
end

section
/-!
PROOFS. The two decoders (R67, R71) and what they refuse: the command decoder over all words, the records that name no
admitted transaction, and the operations that HOST and a callback answer may not issue (R68).
-/
namespace Sys2Proof

/-- ARM's operand as a number (R64). -/
theorem hi32_eq_ofNat (w : DWord) : hi32 w = BitVec.ofNat 32 (w.toNat / 2 ^ 32) := by
  rw [← hi32_toNat, BitVec.ofNat_toNat, BitVec.setWidth_eq]

/-- A map without clashes gives two registers two offsets (R10, R46). -/
theorem regOffset_inj {p : Params} (hp : p.wf = true) {r r' : Reg} (h : regOffset p r = regOffset p r') : r = r' := by
  rw [← Option.some_inj, ← regAt_regOffset hp r, ← regAt_regOffset hp r', h]

/-- The offsets of the map that are read (R46). -/
theorem regOffset_of_read {p : Params} {r : Reg} (h : regDir r = .read) :
    regOffset p r = p.cntLoOff ∨ regOffset p r = p.cntLoOff + 4 := by
  cases r <;> cases h
  · exact .inl rfl
  · exact .inr rfl

/-- The offsets of the map that are written (R46). -/
theorem regOffset_of_write {p : Params} {r : Reg} (h : regDir r = .write) :
    regOffset p r ∈ [p.loadOff, p.ctrlOff, 0x20, 0x24, 0x2C] := by
  cases r <;> cases h <;> simp [regOffset]

/-- What a transaction at an offset says of the map (R46, R70). -/
theorem transactionAt_ok {p : Params} {d : Dir} {off : Nat} {v : Word} {i : Instr}
    (h : transactionAt p d off v = .ok i) : ∃ r, off = regOffset p r ∧ d = regDir r ∧ i = regInstr v r := by
  unfold transactionAt at h
  split at h
  · cases h
  · split at h
    · cases h
    · next r hr =>
      split at h
      · cases h
      · next hd =>
        cases h
        exact ⟨r, regAt_eq_some hr, Classical.not_not.1 hd, rfl⟩

/-- What decoding says of a record's fields (R69, R70): no reserved bit, and a register's offset in its direction. -/
theorem decodeBus_ok {p : Params} {w : DWord} {i : Instr} (h : decodeBus p w = .ok i) :
    w.toNat / 2 ^ 17 % 2 ^ 15 = 0 ∧ w.toNat / 2 ^ 12 % 2 ^ 4 = 0 ∧
      ∃ r, w.toNat % 2 ^ 12 = regOffset p r ∧ (if w.toNat / 2 ^ 16 % 2 = 1 then .write else .read) = regDir r ∧
        i = regInstr (hi32 w) r := by
  rw [decodeBus_eq] at h
  split at h
  · cases h
  · next res =>
    obtain ⟨high, low⟩ := not_or.1 res
    exact ⟨Classical.not_not.1 high, Classical.not_not.1 low, transactionAt_ok h⟩

/-- The records R71 refuses, with their fields as numbers: a reserved bit, an offset unlisted for its direction, a value
of CTRL outside the four of R72. -/
def BadRecord (p : Params) (w : DWord) : Prop :=
  w.toNat / 2 ^ 17 % 2 ^ 15 ≠ 0 ∨ w.toNat / 2 ^ 12 % 2 ^ 4 ≠ 0 ∨
    (w.toNat / 2 ^ 16 % 2 = 0 ∧ w.toNat % 2 ^ 12 ≠ p.cntLoOff ∧ w.toNat % 2 ^ 12 ≠ p.cntLoOff + 4) ∨
    (w.toNat / 2 ^ 16 % 2 = 1 ∧ w.toNat % 2 ^ 12 ∉ [p.loadOff, p.ctrlOff, 0x20, 0x24, 0x2C]) ∨
    (w.toNat / 2 ^ 16 % 2 = 1 ∧ w.toNat % 2 ^ 12 = p.ctrlOff ∧
      w.toNat / 2 ^ 32 ∉ [p.stop.toNat, p.run.toNat, p.update.toNat, (p.run ||| p.update).toNat])

/-- A value outside the four numbers of R72 makes no well-formed WR_CTRL. -/
theorem wrCtrl_not_wf {p : Params} {v : Word}
    (h : v.toNat ∉ [p.stop.toNat, p.run.toNat, p.update.toNat, (p.run ||| p.update).toNat]) :
    (Instr.wrCtrl v).wf p = false := by
  rw [Instr.wf, ← Bool.not_eq_true, List.contains_iff_mem]
  exact fun listed => h (List.mem_map_of_mem (f := BitVec.toNat) listed)

/-- The only transaction a bad record can name is a WR_CTRL of a reserved value (log entry 28). -/
theorem BadRecord.decodes_to_reserved {p : Params} {w : DWord} {i : Instr} (bad : BadRecord p w) (hp : p.wf = true)
    (h : decodeBus p w = .ok i) : i = .wrCtrl (hi32 w) ∧ i.wf p = false := by
  obtain ⟨high, low, r, off, dir, rfl⟩ := decodeBus_ok h
  obtain res | res | ⟨read, unlisted⟩ | ⟨write, unlisted⟩ | ⟨_, ctrl, value⟩ := bad
  · exact absurd high res
  · exact absurd low res
  · rw [read] at dir
    exact absurd (regOffset_of_read (p := p) dir.symm) (off ▸ not_or.2 unlisted)
  · rw [write] at dir
    exact absurd (regOffset_of_write dir.symm) (off ▸ unlisted)
  · cases regOffset_inj hp (r' := .ctrl) (off.symm.trans ctrl)
    rw [← hi32_toNat] at value
    exact ⟨rfl, wrCtrl_not_wf value⟩

end Sys2Proof

namespace Sys2Proof.Machine

variable {s : State}

theorem exec_arm_zero (hm : s.mapped = true) : exec (.arm 0#32) s = .next (s.refuse .armZeroDelta) := by
  simp [exec, execArm, hm]

theorem exec_wrCtrl_reserved {v : Word} (h : (Instr.wrCtrl v).wf s.params = false) :
    exec (.wrCtrl v) s = .next (s.refuse .reservedCtrlValue) := if_pos h

theorem exec_irqEntry_host (h : s.issuer = .host) : exec .irqEntry s = .next (s.refuse .commandNotIssuable) := by
  simp [exec, execIrqEntry, h]

theorem exec_irqEntry_callback (h : s.issuer = .irqh) (hc : s.irqh.step = .cb) :
    exec .irqEntry s = .next (s.refuse .callbackOpNotAllowed) := by
  simp [exec, execIrqEntry, h, hc]

theorem exec_reset_irqh (h : s.issuer = .irqh) : exec .reset s = .next (s.refuse .callbackOpNotAllowed) := by
  simp [exec, execReset, h]

theorem takeMove_host {w : DWord} {i : Instr} (h : decodeCmd w = .ok i) :
    takeMove (.host w) s = exec i { s with issuer := .host } := by
  show hostIssue w s = _
  rw [hostIssue, h]

/-- A record from outside the sequences is refused, whatever it says (R53, R71, R80). -/
theorem takeMove_bus_refused (a : Agent) (w : DWord) (s : State) :
    ∃ m e, takeMove (.bus a w) s = .next ({ s with master := m }.refuse e) := by
  show ∃ m e, presentRecord w s = _
  unfold presentRecord
  cases h : decodeBus s.params w with
  | error e => exact ⟨s.master, e, rfl⟩
  | ok i => exact ⟨.host, _, exec_bus_host (decodeBus_format h)⟩

/-- Settles O4: the decoder by its equation over numbers, one case per code. -/
theorem commandDecoderTotal : Obligations.CommandDecoderTotal := by
  refine ⟨fun w => ?_, fun s => exec_arm_zero⟩
  dsimp only
  rw [decodeCmd_eq, hi32_eq_ofNat]
  by_cases res : w.toNat / 2 ^ 8 % 2 ^ 24 ≠ 0
  · rw [if_pos res, if_pos res]
  · rw [if_neg res, if_neg res]
    match w.toNat % 2 ^ 8 with
    | 0 | 1 | 2 | 3 | 4 | 5 => rfl
    | _ + 6 => simp

/-- Settles O5: a bad record names no transaction but a WR_CTRL of a reserved value, and any record is refused. -/
theorem badRecordsRefused : Obligations.BadRecordsRefused := by
  intro s a w hp bad
  constructor
  · cases h : decodeBus s.params w with
    | error e => exact .inl ⟨e, rfl⟩
    | ok i =>
      obtain ⟨rfl, reserved⟩ := BadRecord.decodes_to_reserved bad hp h
      exact .inr ⟨_, rfl, exec_wrCtrl_reserved reserved⟩
  · obtain ⟨m, e, h⟩ := takeMove_bus_refused a w s
    exact ⟨_, h, rfl, rfl, rfl, rfl, rfl, rfl, rfl⟩

/-- Settles O32, by the issuer's check of IRQ_ENTRY and of RESET. -/
theorem irqEntryNotIssuable : Obligations.IrqEntryNotIssuable := by
  refine ⟨fun s => exec_irqEntry_host, fun s => ?_, fun s hi hc => ⟨exec_irqEntry_callback hi hc, exec_reset_irqh hi⟩⟩
  rw [takeMove_host (i := .irqEntry) rfl]
  exact exec_irqEntry_host rfl

end Sys2Proof.Machine
end

section
/-!
PROOFS. The register interface (R81-R87): the record of each transaction, what it does when its agent owns the register
and the block is mapped, its refusal otherwise, and REF's control action (R111); the tick and its carry (R90-R93).
-/
namespace Sys2Proof

/-- Returned by RD_CNT_LO (R81). -/
theorem lo32_eq_ofNat (w : DWord) : lo32 w = BitVec.ofNat 32 w.toNat := by
  apply BitVec.eq_of_toNat_eq
  rw [lo32_toNat, BitVec.toNat_ofNat]

/-- A read's record (R69): DIR is 0. -/
theorem readRecord_toNat {off : Nat} (h : off < 4096) (v : Word) :
    (busRecord .read off v).toNat = v.toNat * 2 ^ 32 + off := by
  rw [busRecord_toNat .read v h, if_neg (by decide), Nat.zero_add]

/-- A write's record (R69): DIR is 1. -/
theorem writeRecord_toNat {off : Nat} (h : off < 4096) (v : Word) :
    (busRecord .write off v).toNat = v.toNat * 2 ^ 32 + 2 ^ 16 + off := by
  rw [busRecord_toNat .write v h, if_pos rfl, Nat.add_assoc]

/-- The low half of a successor wraps exactly at its top (R91). -/
theorem lo32_add_one (w : DWord) : (lo32 (w + 1#64)).toNat = ((lo32 w).toNat + 1) % 2 ^ 32 := by
  rw [lo32_toNat, lo32_toNat, BitVec.toNat_add]
  simp only [BitVec.toNat_ofNat]
  omega

/-- The high half of a successor takes the carry when the low half is at its top (R91, R93). -/
theorem hi32_add_one_of_carry {w : DWord} (h : (lo32 w).toNat = 2 ^ 32 - 1) :
    (hi32 (w + 1#64)).toNat = ((hi32 w).toNat + 1) % 2 ^ 32 := by
  rw [lo32_toNat] at h
  rw [hi32_toNat, hi32_toNat, BitVec.toNat_add]
  simp only [BitVec.toNat_ofNat]
  omega

/-- Without a carry the high half stays (R91). -/
theorem hi32_add_one_of_no_carry {w : DWord} (h : (lo32 w).toNat ≠ 2 ^ 32 - 1) : hi32 (w + 1#64) = hi32 w := by
  have bound := w.isLt
  rw [lo32_toNat] at h
  apply BitVec.eq_of_toNat_eq
  rw [hi32_toNat, hi32_toNat, BitVec.toNat_add]
  simp only [BitVec.toNat_ofNat]
  omega

/-- The four values of R72, one by one. -/
theorem Params.mem_ctrlValues {p : Params} {v : Word} :
    v ∈ p.ctrlValues ↔ v = p.stop ∨ v = p.run ∨ v = p.update ∨ v = p.run ||| p.update := by
  simp [Params.ctrlValues]

/-- WR_CTRL is well formed for the four values of R72. -/
theorem wrCtrl_wf_iff {p : Params} {v : Word} : (Instr.wrCtrl v).wf p = true ↔ v ∈ p.ctrlValues :=
  List.contains_iff_mem

end Sys2Proof

namespace Sys2Proof.Machine

variable {s : State} {i : Instr} {r : Reg}

/-- R53's table: the counter's halves are READERs', LOAD and CTRL are EVENT's and IRQH's, the reset registers RST's. -/
theorem permitted_iff {a : Agent} :
    permitted r a = true ↔
      (∃ k, a = .reader k) ∧ (r = .cntLo ∨ r = .cntHi) ∨ (a = .event ∨ a = .irqh) ∧ (r = .load ∨ r = .ctrl) ∨
        a = .rst ∧ (r = .rst20 ∨ r = .rst24 ∨ r = .rst2C) := by
  cases r <;> cases a <;> simp [permitted]

/-- An instruction that accesses a register is a bus transaction (R70). -/
theorem format_of_busReg (reg : busReg i = some r) : i.format = .bus := by
  cases i <;> cases reg <;> rfl

/-- An admitted read returns and records its register's value, and changes nothing else (R81, R82). -/
theorem exec_read_of_admitted (reg : busReg i = some r) (dir : regDir r = .read) (owner : permitted r s.master = true)
    (mapped : s.mapped = true) (wf : i.wf s.params = true) :
    exec i s =
      .next { s with
        hist := s.hist ++ [.bus s.master .read (regOffset s.params r) (s.regValue r)], busData := s.regValue r } := by
  obtain ⟨t, run, effect⟩ := exec_bus_next (s := s) (format_of_busReg reg)
  have admitted := busAdmitted_iff.2 ⟨r, reg, owner, mapped, wf⟩
  cases effect with
  | refused _ no _ => rw [admitted] at no; cases no
  | read r' reg' _ _ eq => cases reg.symm.trans reg'; rw [run, eq]
  | write r' reg' dir' _ _ => cases reg.symm.trans reg'; cases dir.symm.trans dir'

/-- An admitted write is recorded and then has its effect on its register (R83-R87). -/
theorem exec_write_of_admitted (reg : busReg i = some r) (dir : regDir r = .write) (owner : permitted r s.master = true)
    (mapped : s.mapped = true) (wf : i.wf s.params = true) :
    exec i s = .next (storeEffect i (s.record (.bus s.master .write (regOffset s.params r) (storeData i)))) := by
  obtain ⟨t, run, effect⟩ := exec_bus_next (s := s) (format_of_busReg reg)
  have admitted := busAdmitted_iff.2 ⟨r, reg, owner, mapped, wf⟩
  cases effect with
  | refused _ no _ => rw [admitted] at no; cases no
  | read r' reg' dir' _ _ => cases reg.symm.trans reg'; cases dir.symm.trans dir'
  | write r' reg' _ _ eq => cases reg.symm.trans reg'; rw [run, eq]

/-- By an agent that does not own its register, or on an unmapped block, a transaction is refused (R53, R81-R87). -/
theorem exec_bus_refused (reg : busReg i = some r) (h : permitted r s.master ≠ true ∨ s.mapped = false) :
    ∃ e, exec i s = .next (s.refuse e) := by
  obtain ⟨t, run, effect⟩ := exec_bus_next (s := s) (format_of_busReg reg)
  have no : busAdmitted i s ≠ true := by
    rw [ne_eq, busAdmitted_iff]
    rintro ⟨r', reg', owner, mapped, _⟩
    cases reg.symm.trans reg'
    rcases h with h | h
    · exact h owner
    · rw [mapped] at h; cases h
  cases effect with
  | refused e _ eq => exact ⟨e, by rw [run, eq]⟩
  | read _ _ _ admitted _ => exact absurd admitted no
  | write _ _ _ admitted _ => exact absurd admitted no

/-- REF's control action at the four values of R72: only UPDATE alone latches without counting (R111). -/
theorem refCtrlWrite_of_mem {p : Params} (hp : p.wf = true) {v : Word} (hv : v ∈ p.ctrlValues) (c : Countdown) :
    refCtrlWrite (masksOf p) v c =
      if v = p.stop then { c with en := false, pend := false }
      else { c with cur := c.load, en := decide (v ≠ p.update) } := by
  obtain ⟨run_stop, update_stop, both_stop, run_update, both_update⟩ := Params.ctrl_distinct hp
  obtain rfl | rfl | rfl | rfl := Params.mem_ctrlValues.1 hv
  · rw [if_pos rfl]
    exact refCtrlWrite_stop (masksOf p) c
  · rw [refCtrlWrite_run hp, if_neg run_stop, decide_eq_true run_update]
  · rw [refCtrlWrite_update hp, if_neg update_stop, decide_eq_false (not_not_intro rfl)]
  · rw [refCtrlWrite_runUpdate hp, if_neg both_stop, decide_eq_true both_update]

/-- Settles O40, by the successor's two halves. -/
theorem carryInOneTick : Obligations.CarryInOneTick := by
  intro s t h
  cases h
  refine ⟨fun top => ⟨?_, hi32_add_one_of_carry top⟩, fun below => ⟨?_, hi32_add_one_of_no_carry below⟩, ?_⟩
  · calc (lo32 (s.cnt + 1#64)).toNat = ((lo32 s.cnt).toNat + 1) % 2 ^ 32 := lo32_add_one s.cnt
      _ = (2 ^ 32 - 1 + 1) % 2 ^ 32 := congrArg (fun low => (low + 1) % 2 ^ 32) top
      _ = 0 := rfl
  · have bound := (lo32 s.cnt).isLt
    rw [State.tick_cnt, lo32_add_one, Nat.mod_eq_of_lt (by omega)]
  · exact BitVec.toNat_add s.cnt 1#64

/-- Settles O44: a listed value by the laws of an admitted and of a refused write, any other by R84's value check. -/
theorem ctrlWritten : Obligations.CtrlWritten := by
  intro s v hp
  refine ⟨fun fits => writeRecord_toNat (regOffset_lt fits .ctrl) v, fun listed => ?_, fun h₁ h₂ h₃ h₄ => ?_⟩
  · have mem := Params.mem_ctrlValues.2 listed
    refine ⟨fun mapped owner => ?_, fun ref => ?_, fun other => ?_⟩
    · exact exec_write_of_admitted (i := .wrCtrl v) (r := .ctrl) rfl rfl (by simp [permitted_iff, owner]) mapped
        (wrCtrl_wf_iff.2 mem)
    · rw [ctrlWrite_ref ref, refCtrlWrite_of_mem hp mem]
    · exact exec_bus_refused (i := .wrCtrl v) (r := .ctrl) rfl (other.imp_left fun h => by simp [permitted_iff, h])
  · apply exec_wrCtrl_reserved
    rw [← Bool.not_eq_true, wrCtrl_wf_iff, Params.mem_ctrlValues]
    exact not_or.2 ⟨h₁, not_or.2 ⟨h₂, not_or.2 ⟨h₃, h₄⟩⟩⟩

/-- Settles O39: R90's pseudocode is the model's tick. -/
theorem tickAdvancesBoth : Obligations.TickAdvancesBoth := fun _ => takeMove_tick

/-- Settles O42, by the laws of an admitted read and of a refusal at the two halves. -/
theorem counterHalvesRead : Obligations.CounterHalvesRead := by
  intro s data _
  refine ⟨fun fits => readRecord_toNat (regOffset_lt fits .cntLo) data,
    fun fits => readRecord_toNat (regOffset_lt fits .cntHi) data, fun k mapped reader => ?_, fun other => ?_⟩
  · rw [← reader, ← lo32_eq_ofNat, ← hi32_eq_ofNat]
    exact ⟨exec_read_of_admitted (r := .cntLo) rfl rfl (by simp [permitted_iff, reader]) mapped rfl,
      exec_read_of_admitted (r := .cntHi) rfl rfl (by simp [permitted_iff, reader]) mapped rfl⟩
  · exact ⟨exec_bus_refused (r := .cntLo) rfl (other.imp_left fun h => by simp [permitted_iff, h]),
      exec_bus_refused (r := .cntHi) rfl (other.imp_left fun h => by simp [permitted_iff, h])⟩

/-- Settles O43, by the laws of an admitted and of a refused write and REF's `load_write` (R110). -/
theorem loadWritten : Obligations.LoadWritten := by
  intro s v _
  refine ⟨fun fits => writeRecord_toNat (regOffset_lt fits .load) v, fun mapped owner => ?_,
    fun ref => loadWrite_ref ref v s.timer, fun other => ?_⟩
  · exact exec_write_of_admitted (i := .wrLoad v) (r := .load) rfl rfl (by simp [permitted_iff, owner]) mapped rfl
  · exact exec_bus_refused (i := .wrLoad v) (r := .load) rfl (other.imp_left fun h => by simp [permitted_iff, h])

/-- Settles O45, by the laws of an admitted and of a refused write at the three reset registers. -/
theorem resetRegistersWritten : Obligations.ResetRegistersWritten := by
  intro s v _
  have record {off : Nat} (h : off < 4096) : (busRecord .write off v).toNat = v.toNat * 2 ^ 32 + (2 ^ 16 + off) :=
    (writeRecord_toNat h v).trans (Nat.add_assoc _ _ _)
  refine ⟨record (off := 0x20) (by decide), record (off := 0x24) (by decide), record (off := 0x2C) (by decide),
    fun mapped rst => ?_, fun other => ?_⟩
  · obtain ⟨own20, own24, own2C⟩ : permitted .rst20 s.master = true ∧ permitted .rst24 s.master = true ∧
        permitted .rst2C s.master = true := by simp [permitted_iff, rst]
    rw [← rst]
    exact ⟨exec_write_of_admitted (i := .wrRst20 v) rfl rfl own20 mapped rfl,
      exec_write_of_admitted (i := .wrRst24 v) rfl rfl own24 mapped rfl,
      exec_write_of_admitted (i := .wrRst2C v) rfl rfl own2C mapped rfl⟩
  · exact ⟨exec_bus_refused (r := .rst20) rfl (other.imp_left fun h => by simp [permitted_iff, h]),
      exec_bus_refused (r := .rst24) rfl (other.imp_left fun h => by simp [permitted_iff, h]),
      exec_bus_refused (r := .rst2C) rfl (other.imp_left fun h => by simp [permitted_iff, h])⟩

end Sys2Proof.Machine
end

section
/-!
PROOFS. READ64 (R95-R101): its issue, and its reads with ticks between them. A run of one READER's script is followed
through what the results of R98 and R99 depend on: the READER's locals, the counter, the history, the moves that remain.
-/
namespace Sys2Proof.Machine

variable {s start : State} {k n : Nat} {r r' : Reader} {g : Reg} {c : DWord} {v : Word} {h : List Event} {ms : List Move}

/-- Settles O11: the READER it creates is the fresh one. -/
theorem read64CreatesReader : Obligations.Read64CreatesReader := by
  refine fun s => ⟨fun mapped => ⟨Reader.fresh, rfl, ?_⟩, fun unmapped => if_pos unmapped⟩
  show execRead64 s = _
  rw [execRead64, if_neg (by simp [mapped])]
  rfl

theorem later_later (c : DWord) (m n : Nat) : later (later c m) n = later c (m + n) := by
  simp [later, BitVec.ofNat_add, BitVec.add_assoc]

/-- What the transaction at a step of a READER reads while the counter is `c` (R97). -/
def ReaderStep.reads (c : DWord) : ReaderStep → Option (Reg × Word)
  | .s1 => some (.cntHi, hi32 c)
  | .s2 => some (.cntLo, lo32 c)
  | .s3 => some (.cntHi, hi32 c)
  | .s4 => some (.cntLo, lo32 c)
  | .idle => none
  | .done => none

/-- READER(k) has read `v` from the register `g`, and its sequence has not advanced yet (R81, R82). -/
def State.readBy (s : State) (k : Nat) (g : Reg) (v : Word) : State :=
  { s with
    master := .reader k
    hist := s.hist ++ [.bus (.reader k) .read (regOffset s.params g) v]
    busData := v }

/-- A READER's move on a mapped block reads what its step names, and the READER advances (R97, R101). -/
theorem takeMove_reader_reads (mapped : s.mapped = true) (reader : s.readers[k]? = some r)
    (reads : r.step.reads s.cnt = some (g, v)) :
    takeMove (.reader k) s = .next (seqAfter (.reader k) (s.readBy k g v)) := by
  have transaction : ∃ i, seqInstr (.reader k) s = some i ∧ busReg i = some g ∧ regDir g = .read ∧
      permitted g (.reader k) = true ∧ s.regValue g = v := by
    simp only [seqInstr, State.reader?, reader, Option.bind_some, Reader.nextInstr]
    cases step : r.step <;> rw [step] at reads <;> cases reads <;> exact ⟨_, rfl, rfl, rfl, rfl, rfl⟩
  obtain ⟨i, next, reg, dir, owner, rfl⟩ := transaction
  rw [takeMove_reader next, agentStep_read next reg dir owner mapped]
  rfl

/-- A READER's advance by the value it has read (R97). -/
theorem seqAfter_reader_own (reader : s.readers[k]? = some r) :
    (seqAfter (.reader k) s).readers[k]? = some (r.advance s.busData) := by
  have issued : k < s.readers.length := (List.getElem?_eq_some_iff.1 reader).1
  show (s.readerAfter k).readers[k]? = _
  rw [readerAfter_eq reader]
  split <;> exact List.getElem?_set_self issued

/-- What READ64 adds to the history when its READER comes to `r`: its return, at DONE (R97). -/
def Reader.returns (k : Nat) (r : Reader) : List Event :=
  if r.step = .done then [.ret (.reader k) (.value r.result)] else []

theorem seqAfter_reader_hist (reader : s.readers[k]? = some r) :
    (seqAfter (.reader k) s).hist = s.hist ++ (r.advance s.busData).returns k := by
  show (s.readerAfter k).hist = _
  rw [readerAfter_eq reader, Reader.returns]
  split
  · rfl
  · exact (List.append_nil _).symm

/-- The run of the whole script. -/
def State.runScript (s : State) : Answer := Sys2Proof.core.run s.script.length s

/-- The run of `start`'s script, of a mapped block, comes to `s`: there READER(k) is `r`, the counter is `c`, the history
is `h`, and the moves `ms` remain. -/
structure ReadsTo (start : State) (k : Nat) (r : Reader) (c : DWord) (h : List Event) (ms : List Move) (s : State) :
    Prop where
  run : start.runScript = s.runScript
  wf : start.params.wf = true
  params : s.params = start.params
  mapped : s.mapped = true
  reader : s.readers[k]? = some r
  cnt : s.cnt = c
  hist : s.hist = h
  script : s.script = ms

/-- `ReadsTo` at some state. -/
def ReadReaches (start : State) (k : Nat) (r : Reader) (c : DWord) (h : List Event) (ms : List Move) : Prop :=
  ∃ s, ReadsTo start k r c h ms s

/-- The first move that remains is one step of the run. -/
theorem ReadsTo.run_next {m : Move} {t : State} (p : ReadsTo start k r c h (m :: ms) s)
    (move : takeMove m { s with script := ms } = .next t) (script : t.script = ms) : start.runScript = t.runScript := by
  rw [p.run, State.runScript, p.script, State.runScript, script]
  exact Machine.run_next (p.params ▸ p.wf) p.script move

namespace ReadReaches

/-- Ticks advance the counter and are recorded; the READER keeps its locals (R58, R90). -/
theorem ticks (p : ReadReaches start k r c h (List.replicate n .tick ++ ms)) :
    ReadReaches start k r (later c n) (h ++ List.replicate n .tick) ms := by
  obtain ⟨s, p⟩ := p
  have run : s.runScript = (s.afterTicks n ms).runScript := by
    rw [State.runScript, p.script, List.length_append, List.length_replicate]
    exact run_ticks (p.params ▸ p.wf) p.script
  exact ⟨s.afterTicks n ms, p.run.trans run, p.wf, p.params, p.mapped, p.reader, congrArg (later · n) p.cnt,
    congrArg (· ++ _) p.hist, rfl⟩

/-- A READER's move reads, and the READER advances to `r'` (R97). -/
theorem read (p : ReadReaches start k r c h (.reader k :: ms)) (reads : r.step.reads c = some (g, v))
    (advance : r.advance v = r') :
    ReadReaches start k r' c (h ++ [.bus (.reader k) .read (regOffset start.params g) v] ++ r'.returns k) ms := by
  obtain ⟨s, p⟩ := p
  subst advance
  have move := takeMove_reader_reads (s := { s with script := ms }) p.mapped p.reader (p.cnt ▸ reads)
  have reader : (State.readBy { s with script := ms } k g v).readers[k]? = some r := p.reader
  refine ⟨_, p.run_next move (seqAfter_script _ _), p.wf, (seqAfter_params _ _).trans p.params,
    (seqAfter_mapped _ _).trans p.mapped, seqAfter_reader_own reader, (seqAfter_cnt _ _).trans p.cnt, ?_,
    seqAfter_script _ _⟩
  rw [seqAfter_reader_hist reader, ← p.hist, ← p.params]
  rfl

/-- With no move left, the run has ended. -/
theorem ended (p : ReadReaches start k r c h []) : ∃ t, start.runScript = .next t ∧ ReadsTo start k r c h [] t := by
  obtain ⟨t, p⟩ := p
  refine ⟨t, ?_, p⟩
  rw [p.run, State.runScript, p.script]
  exact run_zero

end ReadReaches

/-- Up to the test of step 3: the high half, `g1` ticks, the low half, `g2` ticks (R97). -/
theorem readReaches_test {g1 g2 g3 : Nat} {four : Bool} (wf : s.params.wf = true) (mapped : s.mapped = true)
    (reader : s.readers[k]? = some r) (first : r.step = .s1) (script : s.script = readMoves k g1 g2 g3 four) :
    ReadReaches s k { r with step := .s3, hi1 := hi32 s.cnt, lo := lo32 (later s.cnt g1) } (later s.cnt (g1 + g2))
      (s.hist ++ [.bus (.reader k) .read (s.params.cntLoOff + 4) (hi32 s.cnt)] ++ List.replicate g1 .tick ++
        [.bus (.reader k) .read s.params.cntLoOff (lo32 (later s.cnt g1))] ++ List.replicate g2 .tick)
      (.reader k :: if four then List.replicate g3 .tick ++ [.reader k] else []) := by
  obtain ⟨_, hi1, lo, hi2, hi⟩ := r
  cases first
  have start : ReadReaches s k _ s.cnt s.hist (.reader k :: (List.replicate g1 .tick ++ .reader k ::
      (List.replicate g2 .tick ++ .reader k :: if four then List.replicate g3 .tick ++ [.reader k] else []))) :=
    ⟨s, rfl, wf, rfl, mapped, reader, rfl, rfl, by simp [script, readMoves]⟩
  have atTest := ((start.read rfl rfl).ticks.read rfl rfl).ticks
  simpa [later_later, Reader.returns, Reader.advance, regOffset] using atTest

/-- Settles O13: after the common part the test of step 3 ends READ64 as in R98, or lets it read again as in R99. -/
theorem read64ResultAcrossTicks : Obligations.Read64ResultAcrossTicks := by
  rintro s k g1 g2 g3 r ms wf mapped reader first rfl
  have atTest four := readReaches_test (s := { s with script := readMoves k g1 g2 g3 four }) wf mapped reader first rfl
  by_cases same : hi32 (later s.cnt (g1 + g2)) = hi32 s.cnt
  · rw [show highsDiffer s.cnt g1 g2 = false from decide_eq_false (not_not_intro same)]
    obtain ⟨t, run, last⟩ := ((atTest false).read rfl (if_pos same.symm)).ended
    refine ⟨t, run, fun _ => ⟨last.cnt, ?_⟩, fun differ => absurd same differ⟩
    rw [last.hist, same]
    rfl
  · rw [show highsDiffer s.cnt g1 g2 = true from decide_eq_true same]
    obtain ⟨t, run, last⟩ := ((atTest true).read rfl (if_neg (Ne.symm same))).ticks.read rfl rfl |>.ended
    rw [later_later] at last
    refine ⟨t, run, fun equal => absurd equal same, fun _ => ⟨last.cnt, ?_⟩⟩
    simp [last.hist, Reader.returns, Reader.advance, Reader.result, regOffset]

end Sys2Proof.Machine
end

section
/-!
PROOFS. The event scheduler (R112-R128): REF's tick as a countdown of numbers, runs of ticks and writes under REF, ARM's
effect write by write, and the checks of a busy event path and of the interrupt's entry.
-/
namespace Sys2Proof.Machine

variable {p : Params} {m : Masks} {c : Countdown} {op : TimerOp} {ops : List TimerOp} {n : Nat} {s : State}

/-! ## REF's tick (R112) -/

theorem refTick_stopped (stopped : c.en = false) : refTick c = c := by
  simp [refTick, stopped]

theorem refTick_fires (counting : c.en = true) (last : c.cur.toNat ≤ 1) :
    refTick c = { c with cur := 0#32, en := false, pend := true } := by
  rw [refTick, if_pos counting, if_pos (BitVec.le_def.2 last)]

theorem refTick_counts (counting : c.en = true) (more : 1 < c.cur.toNat) :
    refTick c = { c with cur := c.cur - 1#32 } := by
  have notLast : ¬ c.cur ≤ 1#32 := mt BitVec.le_def.1 (Nat.not_le.2 more)
  rw [refTick, if_pos counting, if_neg notLast]

/-- A count above 1 does not wrap. -/
theorem toNat_sub_one {v : Word} (more : 1 < v.toNat) : (v - 1#32).toNat = v.toNat - 1 :=
  BitVec.toNat_sub_of_le (BitVec.le_def.2 (Nat.le_of_lt more))

/-! ## Runs under REF -/

theorem timerRun_ref (ref : p.policy = .ref) (ops : List TimerOp) (c : Countdown) :
    timerRun p ops c = (refPolicy (masksOf p)).run ops c := by
  rw [timerRun, latchPolicy_ref ref]

theorem refRun_ticks_succ (n : Nat) (c : Countdown) :
    (refPolicy m).run (ticks (n + 1)) c = (refPolicy m).run (ticks n) (refTick c) := rfl

theorem refRun_ticks_stopped (stopped : c.en = false) (n : Nat) : (refPolicy m).run (ticks n) c = c := by
  induction n with
  | zero => rfl
  | succ n ih => rw [refRun_ticks_succ, refTick_stopped stopped, ih]

/-- Fewer ticks than the count only decrement it (R112). -/
theorem refRun_ticks_below {load ctrl cur : Word} {pend : Bool} (below : n < cur.toNat) :
    (refPolicy m).run (ticks n) { load, ctrl, cur, en := true, pend } =
      { load, ctrl, cur := cur - BitVec.ofNat 32 n, en := true, pend } := by
  induction n generalizing cur with
  | zero => simp [ticks_zero]
  | succ n ih =>
    have more : 1 < cur.toNat := by omega
    have rest : n < (cur - 1#32).toNat := by rw [toNat_sub_one more]; omega
    rw [refRun_ticks_succ, refTick_counts rfl more, ih rest, Nat.add_comm, BitVec.ofNat_add, ← BitVec.sub_sub]

/-- A running countdown fires on the tick its count names, and on the first if the count is 0 (R112). -/
theorem refRun_ticks_pend (counting : c.en = true) (n : Nat) :
    ((refPolicy m).run (ticks n) c).pend = (c.pend || decide (max 1 c.cur.toNat ≤ n)) := by
  induction n generalizing c with
  | zero => simp [ticks_zero]
  | succ n ih =>
    rw [refRun_ticks_succ]
    by_cases last : c.cur.toNat ≤ 1
    · have due : max 1 c.cur.toNat ≤ n + 1 := by omega
      rw [refTick_fires counting last, refRun_ticks_stopped rfl, decide_eq_true due, Bool.or_true]
    · have more : 1 < c.cur.toNat := Nat.lt_of_not_le last
      have due : max 1 (c.cur - 1#32).toNat ≤ n ↔ max 1 c.cur.toNat ≤ n + 1 := by rw [toNat_sub_one more]; omega
      rw [refTick_counts counting more, ih (c := { c with cur := c.cur - 1#32 }) counting, decide_eq_decide.2 due]

/-- A stopped countdown is started by a RUN write only, and its interrupt cleared by a STOP write only (R113). -/
theorem refOp_stopped (wf : p.wf = true) (noRun : op.notRun (masksOf p) = true) (stopped : c.en = false) :
    ((refPolicy (masksOf p)).op c op).en = false ∧
      (op ≠ .ctrl p.stop → ((refPolicy (masksOf p)).op c op).pend = c.pend) := by
  cases op with
  | tick => rw [Policy.op_tick, refPolicy_tick, refTick_stopped stopped]; exact ⟨stopped, fun _ => rfl⟩
  | load v => exact ⟨stopped, fun _ => rfl⟩
  | ctrl v =>
    rw [Policy.op_ctrl, refPolicy_ctrlWrite]
    obtain rfl | rfl : v = p.stop ∨ v = p.update := by simpa [TimerOp.notRun] using noRun
    · rw [← masksOf_stop, refCtrlWrite_stop]
      exact ⟨rfl, fun other => absurd rfl other⟩
    · rw [refCtrlWrite_update wf]
      exact ⟨rfl, fun _ => rfl⟩

theorem refRun_stopped (wf : p.wf = true) (noRun : ops.all (TimerOp.notRun (masksOf p)) = true)
    (stopped : c.en = false) :
    ((refPolicy (masksOf p)).run ops c).en = false ∧
      (.ctrl p.stop ∉ ops → ((refPolicy (masksOf p)).run ops c).pend = c.pend) := by
  induction ops generalizing c with
  | nil => exact ⟨stopped, fun _ => rfl⟩
  | cons op ops ih =>
    obtain ⟨opNoRun, opsNoRun⟩ : op.notRun (masksOf p) = true ∧ ops.all (TimerOp.notRun (masksOf p)) = true := by
      simpa using noRun
    obtain ⟨opStopped, opPend⟩ := refOp_stopped wf opNoRun stopped
    obtain ⟨opsStopped, opsPend⟩ := ih opsNoRun opStopped
    refine ⟨opsStopped, fun noStop => ?_⟩
    obtain ⟨opNotStop, opsNoStop⟩ := not_or.1 (mt List.mem_cons.2 noStop)
    exact (opsPend opsNoStop).trans (opPend (Ne.symm opNotStop))

/-- Settles O41, by REF's three kinds of tick and the tick on which the count is used up. -/
theorem refTickCountsDown : Obligations.RefTickCountsDown := by
  intro p c n ref
  rw [countdownTick_ref ref, timerRun_ref ref]
  refine ⟨refTick_stopped, refTick_fires, fun counting more => ?_, fun counting => refRun_ticks_pend counting n⟩
  rw [refTick_counts counting more]
  exact ⟨toNat_sub_one more, counting, rfl, rfl, rfl⟩

/-- Settles O29: the fire stops the countdown, and a stopped one stays so without a RUN write. -/
theorem countdownIsOneShot : Obligations.CountdownIsOneShot := by
  intro p c ops wf ref counting last noRun
  rw [countdownTick_ref ref, refTick_fires counting last, timerRun_ref ref, timerRun_ref ref]
  obtain ⟨stopped, pend⟩ := refRun_stopped (c := { c with cur := 0#32, en := false, pend := true }) wf noRun rfl
  exact ⟨rfl, rfl, rfl, stopped, pend, refRun_ticks_stopped rfl _⟩

/-! ## ARM's writes (R119) -/

/-- A2 latches the guard and starts it counting. -/
theorem refRun_armA1A2 (wf : p.wf = true) (c : Countdown) :
    (refPolicy (masksOf p)).run [.load Config.guardValue, .ctrl (p.run ||| p.update)] c =
      { load := 0xFFFFFFFF#32, ctrl := p.run ||| p.update, cur := 0xFFFFFFFF#32, en := true, pend := c.pend } :=
  refCtrlWrite_runUpdate wf _

/-- Up to A4, fewer ticks than the guard only decrement it. -/
theorem refRun_armToA4 (wf : p.wf = true) {g2 g3 : Nat} (guarded : g2 + g3 < 0xFFFFFFFF) (delta : Word)
    (c : Countdown) :
    (refPolicy (masksOf p)).run (armToA4 (masksOf p) delta 0 g2 g3) c =
      { load := delta, ctrl := p.run ||| p.update, cur := 0xFFFFFFFF#32 - BitVec.ofNat 32 (g2 + g3), en := true,
        pend := c.pend } := by
  have writes : armToA4 (masksOf p) delta 0 g2 g3 =
      [.load Config.guardValue, .ctrl (p.run ||| p.update)] ++ (ticks g2 ++ .load delta :: ticks g3) := by
    simp [armToA4, armToA2, guardWindow, ticks_zero]
  have guardLeft2 : g2 < (0xFFFFFFFF#32).toNat := Nat.lt_of_le_of_lt (Nat.le_add_right g2 g3) guarded
  have guardLeft3 : g3 < (0xFFFFFFFF#32 - BitVec.ofNat 32 g2).toNat := by bv_omega
  rw [writes, Policy.run_append, refRun_armA1A2 wf, Policy.run_append, refRun_ticks_below guardLeft2,
    Policy.run_cons, Policy.op_load, refPolicy_loadWrite, refLoadWrite, refRun_ticks_below guardLeft3, BitVec.sub_sub,
    ← BitVec.ofNat_add]

/-- A4 latches delta and starts it counting; what is left of the guard is gone. -/
theorem refRun_arm (wf : p.wf = true) {g2 g3 : Nat} (guarded : g2 + g3 < 0xFFFFFFFF) (delta : Word) (c : Countdown) :
    (refPolicy (masksOf p)).run (armToA4 (masksOf p) delta 0 g2 g3 ++ [.ctrl p.run]) c =
      { load := delta, ctrl := p.run, cur := delta, en := true, pend := c.pend } := by
  rw [Policy.run_append, refRun_armToA4 wf guarded]
  exact refCtrlWrite_run wf _

/-- Settles O21: the registers after each write, and then the tick on which the count delta is used up. -/
theorem armEffectUnderRef : Obligations.ArmEffectUnderRef := by
  intro p c delta g2 g3 n wf ref guarded
  simp only [timerRun_ref ref]
  refine ⟨rfl, refRun_armA1A2 wf c, refRun_armToA4 wf guarded delta c, refRun_arm wf guarded delta c,
    fun nonzero => ?_⟩
  have positive : 1 ≤ delta.toNat := by bv_omega
  rw [Policy.run_append, refRun_arm wf guarded, refRun_ticks_pend rfl, Nat.max_eq_right positive]

/-! ## A busy event path (R128) -/

theorem eventBusy_iff : s.eventBusy = true ↔ s.event.step ≠ .idle ∨ s.irqh.step = .h1 ∨ s.irqh.step = .h2 := by
  simp [State.eventBusy, or_assoc]

theorem exec_arm_busy {delta : Word} (mapped : s.mapped = true) (nonzero : delta ≠ 0#32) (busy : s.eventBusy = true) :
    exec (.arm delta) s = .next (s.raiseFault .eventPathRace) := by
  simp [exec, execArm, mapped, nonzero, busy]

theorem exec_disable_busy (mapped : s.mapped = true) (busy : s.eventBusy = true) :
    exec .disable s = .next (s.raiseFault .eventPathRace) := by
  simp [exec, execDisable, mapped, busy]

theorem mem_raiseFault_faults {f g : FaultReason} : g ∈ (s.raiseFault f).faults ↔ g = f ∨ g ∈ s.faults := by
  rw [State.raiseFault_faults]
  split
  · next present => exact ⟨.inr, fun h => h.elim (fun same => same ▸ List.contains_iff_mem.1 present) id⟩
  · rw [List.mem_append, List.mem_singleton, or_comm]

/-- Settles O25: either command ends in `raiseFault`, which adds to FAULT and touches nothing else. -/
theorem eventPathRaceRecorded : Obligations.EventPathRaceRecorded := by
  intro s i mapped command busy
  have raced : exec i s = .next (s.raiseFault .eventPathRace) := by
    obtain rfl | ⟨delta, nonzero, rfl⟩ := command
    · exact exec_disable_busy mapped (eventBusy_iff.2 busy)
    · exact exec_arm_busy mapped nonzero (eventBusy_iff.2 busy)
  exact ⟨_, raced, mem_raiseFault_faults.2 (.inl rfl), fun _ old => mem_raiseFault_faults.2 (.inr old), rfl⟩

/-! ## The interrupt's entry (R124) -/

theorem enabled_irq_iff :
    enabled .irq s = true ↔
      s.irqReq = true ∧ s.irqh.active = false ∧ s.event.step = .idle ∧
        (s.timer.pend = true ∨ s.params.spuriousIrq = true) := by
  simp [enabled, State.irqEnabled, State.irqLine, and_assoc]

/-- A block with its interrupt requested has been mapped by BOOT (R124, R162). -/
theorem State.Inv.mapped_of_irqReq (inv : s.Inv) (requested : s.irqReq = true) : s.mapped = true := by
  cases mapped : s.mapped with
  | true => rfl
  | false =>
    obtain ⟨_, _, _, notRequested, _⟩ := inv.unmappedIdle mapped
    exact absurd requested (Bool.eq_false_iff.1 notRequested)

theorem exec_irqEntry_no_handler (line : s.issuer = .irqh) (notCb : s.irqh.step ≠ .cb) (entry : s.irqEnabled = true)
    (mapped : s.mapped = true) (noHandler : s.handler = none) :
    exec .irqEntry s = .next (s.refuse .irqWithoutHandler) := by
  simp [exec, execIrqEntry, line, notCb, entry, mapped, noHandler]

/-- An enabled entry runs IRQ_ENTRY for the interrupt line (R124). -/
theorem takeMove_irq (entry : enabled .irq s = true) :
    takeMove .irq s = exec .irqEntry { s with issuer := .irqh } := by
  rw [takeMove, if_pos entry]
  rfl

/-- Settles O30, by R124's conditions, the invariant's unmapped block, and the entry's handler check. -/
theorem irqEntryEnabledExactly : Obligations.IrqEntryEnabledExactly := by
  refine fun s => ⟨enabled_irq_iff, State.Inv.mapped_of_irqReq, fun idle mapped entry noHandler => ?_⟩
  have notCb : s.irqh.step ≠ .cb := by simp [idle]
  rw [takeMove_irq entry]
  exact exec_irqEntry_no_handler rfl notCb entry mapped noHandler

end Sys2Proof.Machine
end

section
/-!
PROOFS. The reset sequencer (R131-R138): RESET as HOST issues it, RST's five writes step by step and in a run, and its
stop at HALTED.
-/
namespace Sys2Proof.Machine

variable {s : State} {i : Instr} {r : Reg} {st : RstStep}

/-- RESET's command word decodes to RESET (R64, R67). -/
theorem decodeCmd_encode_reset (p : Params) : decodeCmd (encode p .reset) = .ok .reset := by
  simp [decodeCmd_eq, encode, pair_toNat]

theorem exec_reset_starts (host : s.issuer = .host) (mapped : s.mapped = true) (idle : s.rst = .idle) :
    exec .reset s = .next { s with rst := .s1 } := by
  simp [exec, execReset, host, mapped, idle]

theorem exec_reset_unmapped (host : s.issuer = .host) (unmapped : s.mapped = false) :
    exec .reset s = .next (s.ret .rst .unit) := by
  simp [exec, execReset, host, unmapped]

theorem exec_reset_reentered (host : s.issuer = .host) (mapped : s.mapped = true) (busy : s.rst ≠ .idle) :
    exec .reset s = .next (s.refuse .resetReentered) := by
  simp [exec, execReset, host, mapped, busy]

/-- Settles O35, by the checks of RESET in their order. -/
theorem resetStarts : Obligations.ResetStarts := fun _ host =>
  ⟨exec_reset_starts host, exec_reset_unmapped host, exec_reset_reentered host⟩

/-- A transaction of RST is a well-formed write of a register that RST owns (R53, R132). -/
theorem rstInstr_owned (next : rstInstr s = some i) (reg : busReg i = some r) :
    regDir r = .write ∧ permitted r .rst = true ∧ i.wf s.params = true := by
  unfold rstInstr at next
  cases step : s.rst <;> rw [step] at next <;> cases next <;> cases reg <;> exact ⟨rfl, rfl, rfl⟩

/-- RST's move at the step `st` of a mapped block: the write that the step names is recorded and done, and RST goes on to
the step after (R132, R134). -/
theorem takeMove_rst_writes (mapped : s.mapped = true) (step : s.rst = st)
    (next : rstInstr { s with rst := st } = some i) (reg : busReg i = some r) :
    takeMove .rst s =
      .next
        { storeEffect i s with
          master := .rst
          hist := s.hist ++ [.bus .rst .write (regOffset s.params r) (storeData i)]
          rst := st.after } := by
  subst step
  obtain ⟨dir, owner, wf⟩ := rstInstr_owned next reg
  have own : seqInstr .rst s = some i := next
  rw [takeMove_rst own, agentStep_write own reg dir owner mapped wf]
  cases i <;> rfl

theorem takeMove_rst_halted (halted : s.rst = .halted) : takeMove .rst s = .fault .stuckHalted := by
  simp [takeMove, enabled, seqInstr, rstInstr, disabledMove, halted]

/-- HOST's RESET on a mapped block with an idle RST (R65, R132). -/
theorem takeMove_host_reset {p : Params} (mapped : s.mapped = true) (idle : s.rst = .idle) :
    takeMove (.host (encode p .reset)) s = .next { s with issuer := .host, rst := .s1 } :=
  (takeMove_host (decodeCmd_encode_reset p)).trans (exec_reset_starts rfl mapped idle)

/-- The records of RESET's five writes, in order (R132). -/
def resetWrites : List Event :=
  [.bus .rst .write 0x2C 0x00000000#32, .bus .rst .write 0x24 0x00000001#32, .bus .rst .write 0x20 0x80000000#32,
    .bus .rst .write 0x2C 0x00000004#32, .bus .rst .write 0x20 0x00000000#32]

/-- `s` while RST runs alone: its step, the history, its registers 0x20, 0x24 and 0x2C, and the moves that remain. -/
def State.resetting (s : State) (st : RstStep) (h : List Event) (v20 v24 v2C : Word) (rest : List Move) : State :=
  { s with
    issuer := .host, master := .rst, rst := st, hist := h, rst20 := v20, rst24 := v24, rst2C := v2C, script := rest }

/-- RESET's issue puts RST at its first step, and RST's five moves make the five writes (R132, R134). -/
theorem run_reset {p : Params} (wf : s.params.wf = true) (mapped : s.mapped = true) (idle : s.rst = .idle)
    (script : s.script = [.host (encode p .reset), .rst, .rst, .rst, .rst, .rst]) :
    Sys2Proof.core.run 6 s =
      .next (s.resetting .halted (s.hist ++ resetWrites) 0x00000000#32 0x00000001#32 0x00000004#32 []) :=
  calc
    Sys2Proof.core.run 6 s =
        Sys2Proof.core.run 5 { s with script := [.rst, .rst, .rst, .rst, .rst], issuer := .host, rst := .s1 } :=
      run_next wf script (takeMove_host_reset mapped idle)
    _ = Sys2Proof.core.run 4 (s.resetting .s2 _ s.rst20 s.rst24 0x00000000#32 _) :=
      run_next wf rfl (takeMove_rst_writes (st := .s1) (i := .wrRst2C 0x00000000#32) mapped rfl rfl rfl)
    _ = Sys2Proof.core.run 3 (s.resetting .s3 _ s.rst20 0x00000001#32 0x00000000#32 _) :=
      run_next wf rfl (takeMove_rst_writes (st := .s2) (i := .wrRst24 0x00000001#32) mapped rfl rfl rfl)
    _ = Sys2Proof.core.run 2 (s.resetting .s4 _ 0x80000000#32 0x00000001#32 0x00000000#32 _) :=
      run_next wf rfl (takeMove_rst_writes (st := .s3) (i := .wrRst20 0x80000000#32) mapped rfl rfl rfl)
    _ = Sys2Proof.core.run 1 (s.resetting .s5 _ 0x80000000#32 0x00000001#32 0x00000004#32 _) :=
      run_next wf rfl (takeMove_rst_writes (st := .s4) (i := .wrRst2C 0x00000004#32) mapped rfl rfl rfl)
    _ = Sys2Proof.core.run 0 (s.resetting .halted _ 0x00000000#32 0x00000001#32 0x00000004#32 _) :=
      run_next wf rfl (takeMove_rst_writes (st := .s5) (i := .wrRst20 0x00000000#32) mapped rfl rfl rfl)
    _ = _ := by simp [run_zero, State.resetting, resetWrites, storeEffect, storeData, regOffset]

/-- Settles O36: each step by the law of RST's move, and the run as RESET's issue and the five steps in sequence. -/
theorem resetWritesExactlyFive : Obligations.ResetWritesExactlyFive := by
  constructor
  · exact fun s mapped =>
      ⟨fun step => takeMove_rst_writes (i := .wrRst2C 0x00000000#32) mapped step rfl rfl,
        fun step => takeMove_rst_writes (i := .wrRst24 0x00000001#32) mapped step rfl rfl,
        fun step => takeMove_rst_writes (i := .wrRst20 0x80000000#32) mapped step rfl rfl,
        fun step => takeMove_rst_writes (i := .wrRst2C 0x00000004#32) mapped step rfl rfl,
        fun step => takeMove_rst_writes (i := .wrRst20 0x00000000#32) mapped step rfl rfl⟩
  · rintro s ms wf mapped idle rfl
    exact ⟨_, run_reset wf mapped idle rfl, rfl, rfl, rfl, rfl, rfl, rfl, rfl, rfl, rfl, rfl⟩

/-- Settles O37: the fifth write's step, RST stuck at HALTED, and the other moves leaving a busy RST alone. -/
theorem haltedLeftOnlyBySystemReset : Obligations.HaltedLeftOnlyBySystemReset := by
  refine fun s => ⟨fun fifth mapped => ?_, fun halted => ?_⟩
  · exact ⟨_, takeMove_rst_writes (i := .wrRst20 0x00000000#32) mapped fifth rfl rfl, rfl, rfl⟩
  · have stuck (t : State) : takeMove .rst s ≠ .next t := by simp [takeMove_rst_halted halted]
    refine ⟨stuck, fun m t taken => ?_⟩
    have notRst : m ≠ .rst := fun same => stuck t (same ▸ taken)
    have busy : s.rst ≠ .idle := by simp [halted]
    by_cases reset : m = .sysreset
    · exact .inr reset
    · exact .inl ((takeMove_rst_busy taken busy notRst reset).trans halted)

end Sys2Proof.Machine
end

section
/-!
PROOFS. Encoding and decoding undo each other (R64-R71): a register's record names its transaction, a command word its
command, and a value that decodes is the word of what it decodes to.
-/
namespace Sys2Proof

/-- A register's offset in its direction names the transaction on it (R46, R70). -/
theorem transactionAt_regOffset {p : Params} (hp : p.wf = true) (r : Reg) (v : Word) :
    transactionAt p (regDir r) (regOffset p r) v = .ok (regInstr v r) := by
  simp [transactionAt, regOffset_aligned hp r, regAt_regOffset hp r]

/-- A register's record (R69) is the encoding of the transaction on it. -/
theorem encode_regInstr (p : Params) (v : Word) (r : Reg) :
    encode p (regInstr v r) = busRecord (regDir r) (regOffset p r) v := by
  cases r <;> rfl

theorem regInstr_format (v : Word) (r : Reg) : (regInstr v r).format = .bus := by
  cases r <;> rfl

/-- Every bus transaction is the one on some register (R70). -/
theorem eq_regInstr_of_format {i : Instr} (bus : i.format = .bus) : ∃ v r, i = regInstr v r := by
  cases i <;> cases bus
  case rdCntLo v => exact ⟨v, .cntLo, rfl⟩
  case rdCntHi v => exact ⟨v, .cntHi, rfl⟩
  case wrLoad v => exact ⟨v, .load, rfl⟩
  case wrCtrl v => exact ⟨v, .ctrl, rfl⟩
  case wrRst20 v => exact ⟨v, .rst20, rfl⟩
  case wrRst24 v => exact ⟨v, .rst24, rfl⟩
  case wrRst2C v => exact ⟨v, .rst2C, rfl⟩

/-- A register's record, where its offset fits OFF, decodes to the transaction on it (R69-R71). -/
theorem decodeBus_busRecord {p : Params} (hp : p.wf = true) (fits : p.recordable = true) (v : Word) (r : Reg) :
    decodeBus p (busRecord (regDir r) (regOffset p r) v) = .ok (regInstr v r) := by
  obtain ⟨high, low, dir, off⟩ := Laws.FixedFields.record_fields fits r v
  have data : hi32 (busRecord (regDir r) (regOffset p r) v) = v := hi32_pair ..
  have named := transactionAt_regOffset hp r v
  rw [decodeBus_eq, if_neg (not_or.2 ⟨not_not_intro high, not_not_intro low⟩), dir, off, data]
  cases r <;> exact named

/-- A command's word decodes to it (R64-R67). -/
theorem decodeCmd_encode (p : Params) {i : Instr} (cmd : i.format = .cmd) : decodeCmd (encode p i) = .ok i := by
  cases i <;> cases cmd
  case arm delta =>
    have code : (encode p (.arm delta)).toNat = delta.toNat * 2 ^ 32 + 2 := pair_toNat delta 2#32
    have data : hi32 (encode p (.arm delta)) = delta := hi32_pair ..
    rw [decodeCmd_eq, if_neg (by omega), if_neg (by omega), if_pos (by omega), data]
  all_goals simp [decodeCmd_eq, encode, pair_toNat]

/-- A record that decodes is the record of what it decodes to: its four fields make up the value (R69). -/
theorem encode_of_decodeBus {p : Params} {w : DWord} {i : Instr} (h : decodeBus p w = .ok i) : encode p i = w := by
  obtain ⟨high, low, r, off, dir, rfl⟩ := decodeBus_ok h
  have fits : regOffset p r < 4096 := off ▸ Nat.mod_lt _ (by decide)
  apply BitVec.eq_of_toNat_eq
  rw [encode_regInstr, busRecord_toNat _ _ fits, hi32_toNat, ← dir, ← off]
  by_cases write : w.toNat / 2 ^ 16 % 2 = 1
  · rw [if_pos write, if_pos rfl]
    omega
  · rw [if_neg write, if_neg (by decide)]
    omega

/-- A word whose RES field is zero is its operand over its code (R64). -/
theorem pair_code {w : DWord} {opnd code : Word} (res : w.toNat / 2 ^ 8 % 2 ^ 24 = 0)
    (low : w.toNat % 2 ^ 8 = code.toNat) (high : w.toNat / 2 ^ 32 = opnd.toNat) : pair opnd code = w := by
  apply BitVec.eq_of_toNat_eq
  rw [pair_toNat]
  omega

/-- A command word that decodes is the word of what it decodes to (R64-R67). -/
theorem encode_of_decodeCmd {p : Params} {w : DWord} {i : Instr} (h : decodeCmd w = .ok i) : encode p i = w := by
  rw [decodeCmd_eq] at h
  split at h
  · cases h
  next res =>
    have res := Classical.not_not.1 res
    repeat' split at h
    all_goals cases h
    case isFalse.isTrue code => exact pair_code res code (hi32_toNat w).symm
    all_goals exact pair_code res ‹_› (Classical.not_not.1 ‹_›)

/-- Settles O1: the round trip of a command word, and that of the record of a register. -/
theorem decodeEncodeAgree : Obligations.DecodeEncodeAgree := by
  intro p i hp fits
  cases format : i.format with
  | cmd => exact decodeCmd_encode p format
  | bus =>
    obtain ⟨v, r, rfl⟩ := eq_regInstr_of_format format
    rw [encode_regInstr]
    exact decodeBus_busRecord hp (fits format) v r

/-- Settles O2, format by format: the fields of a value that decodes are those of the encoding. -/
theorem encodeDecodeAgree : Obligations.EncodeDecodeAgree := by
  rintro p (_ | _) w i h
  · exact ⟨Machine.decodeCmd_format h, encode_of_decodeCmd h⟩
  · exact ⟨Machine.decodeBus_format h, encode_of_decodeBus h⟩

/-- Settles O3, by running the two decoders on the thirteen words. -/
theorem vectorWordsDecode : Obligations.VectorWordsDecode :=
  ⟨rfl, rfl, rfl, rfl, rfl, rfl, rfl, rfl, rfl, rfl, rfl, rfl, rfl⟩

end Sys2Proof
end

section
/-!
PROOFS. The invariant of the machine (R33-R43, R125-R129, R162-R166): every named update of the state keeps it, and so
does everything a command, a bus step, BOOT and the callback can do.
-/
namespace Sys2Proof.Machine

variable {s t : State} {m : Move} {i : Instr} {a : Agent} {k : Nat} {r : Reader}

/-! ## What the invariant reads -/

/-- The part of the state that the invariant reads, besides the refusal marks. -/
def State.control (s : State) : State :=
  { State.reset with
    readers := s.readers, event := s.event, irqh := s.irqh, rst := s.rst, boot := s.boot, mapped := s.mapped
    handler := s.handler, regCe := s.regCe, regCs := s.regCs, irqReq := s.irqReq, faults := s.faults }

theorem State.Inv.of_control (inv : s.Inv) (same : t.control = s.control) (marks : t.refused = t.lastRefusal.isSome) :
    t.Inv := by
  have control : t.control.Inv := same ▸ { inv with refusedReason := rfl }
  exact { control with refusedReason := marks }

/-- Marks that are as they were, or set together, go together (R143). -/
theorem marks_agree (old : s.refused = s.lastRefusal.isSome)
    (new : (t.refused = s.refused ∧ t.lastRefusal = s.lastRefusal) ∨ (t.refused = true ∧ t.lastRefusal.isSome = true)) :
    t.refused = t.lastRefusal.isSome := by
  obtain ⟨mark, reason⟩ | ⟨mark, reason⟩ := new
  · rw [mark, reason, old]
  · rw [mark, reason]

/-- The agents at rest, one by one (R180). -/
theorem agentsIdle_iff :
    s.agentsIdle = true ↔
      (∀ r ∈ s.readers, r.step = .idle) ∧ s.event.step = .idle ∧ s.irqh.step = .idle ∧ s.rst = .idle ∧
        s.boot = .idle := by
  simp [State.agentsIdle, State.readersIdle, and_assoc]

/-- An agent under way has a mapped block (R38). -/
theorem State.Inv.mapped_of_busy (inv : s.Inv) (busy : s.agentsIdle ≠ true) : s.mapped = true :=
  Bool.of_not_eq_false fun unmapped => busy (inv.unmappedIdle unmapped).1

theorem State.Inv.mapped_of_boot (inv : s.Inv) (busy : s.boot ≠ .idle) : s.mapped = true :=
  inv.mapped_of_busy fun idle => busy (agentsIdle_iff.1 idle).2.2.2.2

theorem State.Inv.mapped_of_irqh (inv : s.Inv) (busy : s.irqh.step ≠ .idle) : s.mapped = true :=
  inv.mapped_of_busy fun idle => busy (agentsIdle_iff.1 idle).2.2.1

theorem State.Inv.mapped_of_reader (inv : s.Inv) (reader : s.readers[k]? = some r) (busy : r.step ≠ .idle) :
    s.mapped = true :=
  inv.mapped_of_busy fun idle => busy ((agentsIdle_iff.1 idle).1 r (List.mem_of_getElem? reader))

/-- Of a mapped block the first clause of the invariant says nothing. -/
theorem not_unmapped {P : Prop} (mapped : s.mapped = true) (unmapped : s.mapped = false) : P :=
  absurd unmapped (by simp [mapped])

/-- An operation of the callback's answer is under way on an agent (R125). -/
def State.runsForIrqh (s : State) : Agent → Prop
  | .event => s.event.step ≠ .idle ∧ s.event.issuer = .irqh
  | .reader k => ∃ r, s.readers[k]? = some r ∧ r.step.inFlight = true
  | _ => False

theorem waitOk_iff : s.waitOk ↔ ∀ a, s.irqh.wait = some a → s.runsForIrqh a := by
  unfold State.waitOk
  rcases wait : s.irqh.wait with _ | _ | _ | _ | _ | _ | _ | _ <;> simp [State.runsForIrqh]

/-! ## The updates -/

theorem State.Inv.refuse (inv : s.Inv) (e : Reason) : (s.refuse e).Inv := inv.of_control rfl rfl

theorem State.Inv.raiseFault (inv : s.Inv) (f : FaultReason) : (s.raiseFault f).Inv := by
  refine { inv with faultsNodup := ?_ }
  rw [State.raiseFault_faults]
  split
  · exact inv.faultsNodup
  · next new =>
    have distinct : ∀ g ∈ s.faults, g ≠ f := fun g mem same => new (List.contains_iff_mem.2 (same ▸ mem))
    exact List.pairwise_append.2 ⟨inv.faultsNodup, List.pairwise_singleton _ f, by simpa using distinct⟩

/-- A return ends at most IRQH's wait. -/
theorem State.Inv.ret (inv : s.Inv) (a : Agent) (v : Result) : (s.ret a v).Inv := by
  refine { inv with nothingBeforeAnswer := fun first => ?_, waitOk := waitOk_iff.2 fun b waits => ?_ }
  · obtain ⟨ops, wait⟩ := inv.nothingBeforeAnswer first
    exact ⟨ops, by simp [wait]⟩
  · rw [State.ret_irqh] at waits
    dsimp only at waits
    split at waits
    · cases waits
    · exact waitOk_iff.1 inv.waitOk b waits

/-- A READER of a mapped block may be at any step, but one that IRQH waits for stays in flight. -/
theorem State.Inv.setReader (inv : s.Inv) (mapped : s.mapped = true) (reader : s.readers[k]? = some r) {r' : Reader}
    (waits : s.irqh.wait = some (.reader k) → r'.step.inFlight = true) : (s.setReader k r').Inv := by
  refine { inv with unmappedIdle := not_unmapped mapped, waitOk := waitOk_iff.2 fun a wait => ?_ }
  have run := waitOk_iff.1 inv.waitOk a wait
  cases a with
  | reader j =>
    by_cases same : j = k
    · subst same
      exact ⟨r', List.getElem?_set_self (List.getElem?_eq_some_iff.1 reader).1, waits wait⟩
    · obtain ⟨q, at_j, flight⟩ := run
      exact ⟨q, (List.getElem?_set_ne (Ne.symm same)).trans at_j, flight⟩
  | _ => exact run

/-- EVENT under way goes to another step of the same operation, or to IDLE when IRQH does not wait for it. -/
theorem State.Inv.setEventStep (inv : s.Inv) (mapped : s.mapped = true) {st : EventStep}
    (busy : st ≠ .idle → s.event.step ≠ .idle) (arming : st.arming = true → s.event.step.arming = true)
    (waits : s.irqh.wait = some .event → st ≠ .idle) : (s.setEventStep st).Inv := by
  refine { inv with
    unmappedIdle := not_unmapped mapped
    deltaNonzero := fun arm => inv.deltaNonzero (arming arm)
    eventPathExclusive := fun run => inv.eventPathExclusive (busy run)
    waitOk := waitOk_iff.2 fun a wait => ?_ }
  have run := waitOk_iff.1 inv.waitOk a wait
  cases a with
  | event => exact ⟨waits wait, run.2⟩
  | _ => exact run

/-- H1 and H2 are followed by H2 and CB (R125). -/
theorem State.Inv.setIrqStep (inv : s.Inv) {st : IrqStep}
    (next : (s.irqh.step = .h1 ∧ st = .h2) ∨ (s.irqh.step = .h2 ∧ st = .cb)) : (s.setIrqStep st).Inv := by
  have busy : s.irqh.step ≠ .idle ∧ s.irqh.step ≠ .cb ∧ st ≠ .idle := by
    obtain ⟨h, rfl⟩ | ⟨h, rfl⟩ := next <;> simp [h]
  have event : s.event.step = .idle := Decidable.byContradiction fun run => by
    obtain ⟨not1, not2⟩ := inv.eventPathExclusive run
    obtain ⟨h, _⟩ | ⟨h, _⟩ := next
    · exact not1 h
    · exact not2 h
  exact { inv with
    unmappedIdle := not_unmapped (inv.mapped_of_irqh busy.1)
    activeIff := ⟨fun _ => busy.2.2, fun _ => inv.activeIff.2 busy.1⟩
    eventPathExclusive := fun run => absurd event run
    callbackOnlyAtCb := fun answered => absurd (inv.callbackOnlyAtCb answered) busy.2.1
    waitOk := inv.waitOk }

theorem State.Inv.takeInterrupt (inv : s.Inv) (mapped : s.mapped = true) (event : s.event.step = .idle) :
    s.takeInterrupt.Inv :=
  { inv with
    unmappedIdle := not_unmapped mapped
    activeIff := by simp
    eventPathExclusive := fun run => absurd event run
    callbackOnlyAtCb := fun answered => by cases answered
    nothingBeforeAnswer := fun _ => ⟨rfl, rfl⟩
    waitOk := trivial }

/-- IRQH waits for an operation that it issues; the wait is one of a callback that has answered (R125). -/
theorem State.Inv.awaited (inv : s.Inv) (answered : s.issuer = .irqh → s.irqh.answered = true)
    (run : s.issuer = .irqh → s.runsForIrqh a) : (s.awaited a).Inv := by
  refine { inv with nothingBeforeAnswer := fun first => ?_, waitOk := waitOk_iff.2 fun b waits => ?_ }
  · obtain ⟨ops, wait⟩ := inv.nothingBeforeAnswer first
    have host : s.issuer ≠ .irqh := fun irqh => by
      rw [State.awaited_irqh, answered irqh] at first
      cases first
    exact ⟨ops, by simp [host, wait]⟩
  · rw [State.awaited_irqh] at waits
    dsimp only at waits
    split at waits
    · cases waits
      have := run ‹_›
      cases a <;> exact this
    · have := waitOk_iff.1 inv.waitOk b waits
      cases b <;> exact this

/-- A new READER of a mapped block leaves the others alone. -/
theorem State.Inv.addReader (inv : s.Inv) (mapped : s.mapped = true) (r : Reader) :
    State.Inv { s with readers := s.readers ++ [r] } := by
  refine { inv with unmappedIdle := not_unmapped mapped, waitOk := waitOk_iff.2 fun a wait => ?_ }
  have run := waitOk_iff.1 inv.waitOk a wait
  cases a with
  | reader k =>
    obtain ⟨q, at_k, flight⟩ := run
    exact ⟨q, List.getElem?_append_left (List.getElem?_eq_some_iff.1 at_k).1 ▸ at_k, flight⟩
  | _ => exact run

theorem State.Inv.startReader (inv : s.Inv) (mapped : s.mapped = true)
    (answered : s.issuer = .irqh → s.irqh.answered = true) : s.startReader.Inv :=
  (inv.addReader mapped Reader.fresh).awaited answered fun _ => ⟨Reader.fresh, by simp, rfl⟩

theorem eventBusy_eq_false_iff :
    s.eventBusy = false ↔ s.event.step = .idle ∧ s.irqh.step ≠ .h1 ∧ s.irqh.step ≠ .h2 := by
  rw [← Bool.not_eq_true, eventBusy_iff, not_or, not_or, Decidable.not_not]

/-- EVENT starts an operation on a free event path (R108, R128). -/
theorem State.Inv.startEvent (inv : s.Inv) (mapped : s.mapped = true) (free : s.eventBusy = false) {st : EventStep}
    {delta : Word} (start : st ≠ .idle) (nonzero : st.arming = true → delta ≠ 0#32)
    (answered : s.issuer = .irqh → s.irqh.answered = true) : (s.startEvent st delta).Inv := by
  obtain ⟨event, not1, not2⟩ := eventBusy_eq_false_iff.1 free
  have started : State.Inv { s with event := { step := st, delta := delta, issuer := s.issuer } } := by
    refine { inv with
      unmappedIdle := not_unmapped mapped
      deltaNonzero := nonzero
      eventPathExclusive := fun _ => ⟨not1, not2⟩
      waitOk := waitOk_iff.2 fun a wait => ?_ }
    have run := waitOk_iff.1 inv.waitOk a wait
    cases a with
    | event => exact absurd event run.1
    | _ => exact run
  exact started.awaited answered fun irqh => ⟨start, irqh⟩

theorem State.Inv.callback (inv : s.Inv) (cb : s.irqh.step = .cb) (ops : List DWord) : (s.callback ops).Inv :=
  { inv with
    callbackOnlyAtCb := fun _ => cb
    nothingBeforeAnswer := fun first => by cases first
    waitOk := inv.waitOk }

theorem State.Inv.takeOp (inv : s.Inv) (answered : s.irqh.answered = true) (ops : List DWord) : (s.takeOp ops).Inv :=
  { inv with
    nothingBeforeAnswer := fun first => absurd (answered.symm.trans first) (by decide)
    waitOk := inv.waitOk }

theorem State.Inv.callbackDone (inv : s.Inv) (cb : s.irqh.step = .cb) (free : s.irqh.wait = none)
    (ops : s.irqh.pendingOps = []) : s.callbackDone.Inv := by
  have busy : s.irqh.step ≠ .idle := by simp [cb]
  exact { inv with
    unmappedIdle := not_unmapped (inv.mapped_of_irqh busy)
    activeIff := ⟨fun _ => by simp, fun _ => inv.activeIff.2 busy⟩
    eventPathExclusive := fun _ => by simp
    callbackOnlyAtCb := fun answered => by cases answered
    nothingBeforeAnswer := fun _ => ⟨ops, free⟩
    waitOk := inv.waitOk }

theorem State.Inv.returnFromInterrupt (inv : s.Inv) (ret : s.irqh.step = .ret) : s.returnFromInterrupt.Inv :=
  { inv with
    unmappedIdle := not_unmapped (inv.mapped_of_irqh (by simp [ret]))
    activeIff := by simp
    eventPathExclusive := fun _ => by simp
    callbackOnlyAtCb := fun answered => by cases answered
    nothingBeforeAnswer := fun _ => ⟨rfl, rfl⟩
    waitOk := trivial }

/-- A system reset leaves every agent idle and nothing registered (R137). -/
theorem systemReset_agentsIdle (s : State) : s.systemReset.agentsIdle = true := by
  simp [agentsIdle_iff]

theorem State.Inv.systemReset (inv : s.Inv) : s.systemReset.Inv where
  unmappedIdle _ := ⟨systemReset_agentsIdle s, rfl, rfl, rfl, rfl⟩
  activeIff := by simp
  handlerSet requested := by cases requested
  bootHandler booting := by simp at booting
  refusedReason := inv.refusedReason
  faultsNodup := inv.faultsNodup
  deltaNonzero arming := by cases arming
  eventPathExclusive run := absurd rfl run
  callbackOnlyAtCb answered := by cases answered
  nothingBeforeAnswer _ := ⟨rfl, rfl⟩
  waitOk := trivial

/-! ## Commands, bus steps, moves -/

/-- Issuing a command keeps the invariant; one that IRQH issues is an operation of an answer or IRQ_ENTRY itself. -/
theorem IssueEffect.inv (e : IssueEffect i s t) (inv : s.Inv)
    (irqh : s.issuer = .irqh → s.irqh.answered = true ∨ i = .irqEntry) : t.Inv := by
  have answered (other : i ≠ .irqEntry) : s.issuer = .irqh → s.irqh.answered = true :=
    fun line => (irqh line).resolve_right other
  cases e with
  | refused e eq => exact eq ▸ inv.refuse e
  | raced _ _ eq => exact eq ▸ inv.raiseFault .eventPathRace
  | armUnavailable _ _ _ eq => exact eq ▸ inv.ret .event .errUnavailable
  | resetUnmapped _ _ eq => exact eq ▸ inv.ret .rst .unit
  | read64 instr mapped eq => exact eq ▸ inv.startReader mapped (answered (by simp [instr]))
  | arm delta instr mapped nonzero free eq =>
    exact eq ▸ inv.startEvent mapped free (by decide) (fun _ => nonzero) (answered (by simp [instr]))
  | disable instr mapped free eq =>
    exact eq ▸ inv.startEvent mapped free (by decide) (fun arming => by cases arming) (answered (by simp [instr]))
  | reset _ _ mapped _ eq => exact eq ▸ { inv with unmappedIdle := not_unmapped mapped }
  | irqEntry _ _ _ enabled mapped _ eq =>
    obtain ⟨_, _, event, _⟩ := enabled_irq_iff.1 enabled
    exact eq ▸ inv.takeInterrupt mapped event

theorem BusEffect.control_eq (e : BusEffect i s t) : t.control = s.control := by
  cases e with
  | refused _ _ eq => exact eq ▸ rfl
  | read _ _ _ _ eq => exact eq ▸ rfl
  | write _ _ _ _ eq => rw [eq]; cases i <;> rfl

theorem BusEffect.inv (e : BusEffect i s t) (inv : s.Inv) : t.Inv :=
  inv.of_control e.control_eq (marks_agree inv.refusedReason e.marks)

/-- A READER in flight goes on or is done (R97). -/
theorem Reader.advance_inFlight (flight : r.step.inFlight = true) (v : Word) :
    (r.advance v).step = .done ∨ (r.advance v).step.inFlight = true := by
  unfold Reader.advance
  cases step : r.step <;> rw [step] at flight
  case s3 => by_cases same : r.hi1 = v <;> simp [same, ReaderStep.inFlight]
  all_goals simp [ReaderStep.inFlight] at flight ⊢

/-- A READER's advance: its return, at DONE, ends IRQH's wait for it (R97, R125). -/
theorem State.Inv.readerAfter (inv : s.Inv) (mapped : s.mapped = true) (reader : s.readers[k]? = some r) :
    (s.readerAfter k).Inv := by
  rw [readerAfter_eq reader]
  split
  · exact (inv.ret (.reader k) _).setReader mapped reader fun wait => absurd wait (ret_wait (.reader k) _)
  · next more =>
    refine inv.setReader mapped reader fun wait => ?_
    obtain ⟨q, at_k, flight⟩ := waitOk_iff.1 inv.waitOk _ wait
    cases reader.symm.trans at_k
    exact (Reader.advance_inFlight flight s.busData).resolve_left more

/-- A sequence's advance on a mapped block keeps the invariant. -/
theorem State.Inv.seqAfter (inv : s.Inv) (mapped : s.mapped = true) (a : Agent) : (seqAfter a s).Inv := by
  obtain h | ⟨k, r, _, reader, h⟩ | ⟨st, _, h, more, busy, arming⟩ | ⟨v, _, h⟩ | ⟨st, _, h, next⟩ | ⟨_, h⟩ :=
    seqAfter_cases a s <;> rw [h]
  · exact inv
  · exact inv.readerAfter mapped reader
  · exact inv.setEventStep mapped (fun _ => busy) arming.symm.trans (fun _ => more)
  · exact (inv.ret .event v).setEventStep mapped (absurd rfl) (fun arming => by cases arming)
      fun wait => absurd wait (ret_wait .event v)
  · exact inv.setIrqStep next
  · exact { inv with unmappedIdle := not_unmapped mapped }

/-- Everything a move can do keeps the invariant. -/
theorem MoveEffect.inv (e : MoveEffect m s t) (inv : s.Inv) : t.Inv := by
  cases e with
  | tick _ eq => exact eq ▸ inv.of_control rfl inv.refusedReason
  | issue i who _ src eff =>
    refine eff.inv (inv.of_control rfl inv.refusedReason) fun line => ?_
    obtain host | ⟨_, entry, _⟩ := src
    · exact absurd (host.symm.trans line) (by decide)
    · exact .inr entry
  | bootDisable h at3 eff =>
    refine eff.inv ?_ fun line => by cases line
    exact { inv with
      unmappedIdle := not_unmapped (inv.mapped_of_boot (by simp [at3]))
      bootHandler := fun later => by simp at later }
  | callbackOp _ _ ws _ _ _ answered _ _ eff => exact eff.inv (inv.takeOp answered ws) fun _ => .inl answered
  | callbackBadWord _ ws e _ _ answered _ _ eq => exact eq ▸ (inv.takeOp answered ws).refuse e
  | refused e eq => exact eq ▸ inv.refuse e
  | bootStart h _ eq =>
    exact eq ▸ { inv with
      unmappedIdle := fun unmapped => by cases unmapped
      bootHandler := fun later => by simp at later }
  | bootAborted _ eq => exact eq ▸ inv
  | bootCe h at4 eq =>
    exact eq ▸ { inv with
      unmappedIdle := not_unmapped (inv.mapped_of_boot (by simp [at4]))
      handlerSet := fun _ => rfl
      bootHandler := fun _ => rfl }
  | bootIrq at5 eq =>
    have handler := inv.bootHandler (.inl at5)
    exact eq ▸ { inv with
      unmappedIdle := not_unmapped (inv.mapped_of_boot (by simp [at5]))
      handlerSet := fun _ => handler
      bootHandler := fun _ => handler }
  | bootCs at6 eq =>
    exact eq ▸ { inv with
      unmappedIdle := not_unmapped (inv.mapped_of_boot (by simp [at6]))
      bootHandler := fun _ => inv.bootHandler (.inr (.inl at6)) }
  | bootDone at7 eq =>
    exact eq ▸ { inv with
      unmappedIdle := not_unmapped (inv.mapped_of_boot (by simp [at7]))
      bootHandler := fun later => by simp at later }
  | sequenced a i u _ _ eff eq =>
    have transacted : u.Inv := eff.inv (inv.of_control rfl inv.refusedReason)
    rw [eq]
    split
    · next admitted =>
      obtain ⟨_, _, _, mapped, _⟩ := busAdmitted_iff.1 admitted
      exact transacted.seqAfter (eff.mapped_eq.trans mapped) a
    · exact transacted
  | retired k r _ reader done eq =>
    refine eq ▸ inv.setReader (inv.mapped_of_reader reader (by simp [done])) reader fun wait => ?_
    obtain ⟨q, at_k, flight⟩ := waitOk_iff.1 inv.waitOk _ wait
    cases reader.symm.trans at_k
    rw [done] at flight
    cases flight
  | presented e _ eq =>
    have named : State.Inv { s with master := .host } := inv.of_control rfl inv.refusedReason
    exact eq ▸ named.refuse e
  | callback ops _ cb _ eq => exact eq ▸ inv.callback cb ops
  | callbackDone _ cb _ free ops eq => exact eq ▸ inv.callbackDone cb free ops
  | returned _ ret eq => exact eq ▸ inv.returnFromInterrupt ret
  | sysreset _ _ eq => exact eq ▸ inv.systemReset

/-- Settles O54: the choice of the move is none of the invariant's business, and what the move does keeps it. -/
theorem everyStepKeepsInvariant : Obligations.EveryStepKeepsInvariant := by
  intro s t inv h
  obtain ⟨_, _, eff⟩ | ⟨_, eq⟩ := step_effect h
  · have chosen : (nextMove s).2.Inv := nextMove_state ▸ inv.of_control rfl inv.refusedReason
    exact eff.inv chosen
  · exact eq ▸ inv.refuse .badParameters

/-- Settles O55: every agent is idle, nothing is registered, and the marks are empty. -/
theorem resetStateMeetsInvariant : Obligations.ResetStateMeetsInvariant where
  unmappedIdle _ := ⟨rfl, rfl, rfl, rfl, rfl⟩
  activeIff := by decide
  handlerSet requested := by cases requested
  bootHandler := by decide
  refusedReason := rfl
  faultsNodup := List.nodup_nil
  deltaNonzero arming := by cases arming
  eventPathExclusive run := absurd rfl run
  callbackOnlyAtCb answered := by cases answered
  nothingBeforeAnswer _ := ⟨rfl, rfl⟩
  waitOk := trivial

/-- Settles O56, field by field. -/
theorem resetStateAsGiven : Obligations.ResetStateAsGiven :=
  ⟨rfl, rfl, rfl, rfl, rfl, rfl, rfl, rfl, rfl, rfl, by decide⟩

end Sys2Proof.Machine
end

section
/-!
PROOFS. What a step runs (R7, R33, R54, R65, R71): the move it takes, and the command, the record, the access or the
sequence's transaction that the move brings to exec; parameters that do not let the model start (R10).
-/
namespace Sys2Proof

theorem oneBit_iff {v : Word} : oneBit v = true ↔ ∃ i < 32, v.toNat = 2 ^ i := by
  have bit {i : Nat} (h : i < 32) : v = BitVec.twoPow 32 i ↔ v.toNat = 2 ^ i := by
    rw [eq_iff_toNat_eq, BitVec.toNat_twoPow, Nat.mod_eq_of_lt (Nat.pow_lt_pow_right (by decide) h)]
  simp only [oneBit, List.any_eq_true, List.mem_range, beq_iff_eq]
  exact exists_congr fun i => and_congr_right bit

theorem not_oneBit_iff {v : Word} : ¬ oneBit v = true ↔ ∀ i < 32, v.toNat ≠ 2 ^ i := by
  simp [oneBit_iff]

/-- A map that breaks alignment, distinctness or the region's size, and masks or a clock that break R10. -/
theorem Params.not_wf_iff {p : Params} :
    ¬ p.wf = true ↔
      (p.base % 4 ≠ 0 ∨ p.cntLoOff % 4 ≠ 0 ∨ p.loadOff % 4 ≠ 0 ∨ p.ctrlOff % 4 ≠ 0) ∨ ¬ p.offsets.Nodup ∨
        (∃ o ∈ p.offsets, p.regionSize < o + 4) ∨
        (¬ oneBit p.stop = true ∨ ¬ oneBit p.run = true ∨ ¬ oneBit p.update = true ∨ p.stop = p.run ∨
          p.stop = p.update ∨ p.run = p.update) ∨ p.clockHz = 0 := by
  simp only [Params.wf, Params.alignedOk, Params.distinctOk, Params.regionOk, Params.masksOk, Bool.and_eq_true,
    beq_iff_eq, bne_iff_ne, decide_eq_true_eq, List.all_eq_true,
    Classical.not_and_iff_not_or_not, or_assoc, Classical.not_forall, Nat.not_le, exists_prop,
    Nat.not_lt, Nat.le_zero, ne_eq, Classical.not_not]

end Sys2Proof

namespace Sys2Proof.Machine

variable {s t : State} {m : Move} {i : Instr} {a : Agent} {w : DWord} {ws : List DWord} {e : Reason} {k : Nat}

/-! ## The moves that bring a command or a transaction -/

theorem takeMove_host_undecoded (h : decodeCmd w = .error e) : takeMove (.host w) s = .next (s.refuse e) := by
  show hostIssue w s = _
  rw [hostIssue, h]

/-- IRQH's move at step CB, when the callback has answered and nothing is waited for (R125). -/
theorem takeMove_irqh_callback (cb : s.irqh.step = .cb) (answered : s.irqh.answered = true)
    (free : s.irqh.wait = none) : takeMove .irqh s = callbackStep s := by
  simp [takeMove, enabled, runMove, irqhStep, cb, answered, free]

theorem callbackStep_decoded (ops : s.irqh.pendingOps = w :: ws) (h : decodeCmd w = .ok i) :
    callbackStep s = exec i (s.takeOp ws) := by
  simp only [callbackStep, ops, h]

theorem callbackStep_undecoded (ops : s.irqh.pendingOps = w :: ws) (h : decodeCmd w = .error e) :
    callbackStep s = .next ((s.takeOp ws).refuse e) := by
  simp only [callbackStep, ops, h]

/-- A record from outside the sequences runs with HOST as its master (log entry 14). -/
theorem takeMove_bus_decoded (h : decodeBus s.params w = .ok i) :
    takeMove (.bus a w) s = exec i { s with master := .host } := by
  show presentRecord w s = _
  rw [presentRecord, h]
  rfl

/-- A sequencer's move, while its sequence names a transaction, is its agent's bus step (R33, R54). -/
theorem takeMove_sequencer
    (own : (∃ k, m = .reader k ∧ a = .reader k) ∨ (m = .event ∧ a = .event) ∨ (m = .irqh ∧ a = .irqh) ∨
      (m = .rst ∧ a = .rst))
    (next : seqInstr a s = some i) : takeMove m s = agentStep a s := by
  obtain ⟨k, rfl, rfl⟩ | ⟨rfl, rfl⟩ | ⟨rfl, rfl⟩ | ⟨rfl, rfl⟩ := own
  · exact takeMove_reader next
  · exact takeMove_event next
  · exact takeMove_irqh next
  · exact takeMove_rst next

/-- Settles O6, move by move: HOST's word, the interrupt line's entry, the next operation of an answer. -/
theorem stepRunsIssuedCommand : Obligations.StepRunsIssuedCommand := by
  refine ⟨fun s w ms wf script => ?_, fun s ms wf script entry => ?_,
    fun s w ws ms wf script cb answered free ops => ?_⟩
  · rw [step_of_script wf script]
    exact ⟨fun i => takeMove_host, fun e => takeMove_host_undecoded⟩
  · rw [step_of_script wf script]
    exact takeMove_irq (s := { s with script := ms }) entry
  · rw [step_of_script wf script, takeMove_irqh_callback (s := { s with script := ms }) cb answered free]
    exact ⟨fun i => callbackStep_decoded (s := { s with script := ms }) ops,
      fun e => callbackStep_undecoded (s := { s with script := ms }) ops⟩

/-- Settles O7: the record's transaction runs for HOST, whom R53 permits nothing. -/
theorem stepRunsPresentedRecord : Obligations.StepRunsPresentedRecord := by
  intro s a w i ms wf script decoded
  have run : step s = exec i { s with script := ms, master := .host } :=
    (step_of_script wf script).trans (takeMove_bus_decoded decoded)
  have refused := run.trans (exec_bus_host (s := { s with script := ms }) (decodeBus_format decoded))
  refine ⟨run, fun good => ?_, fun bad => ?_⟩
  · simpa [outsideReason, good] using refused
  · simpa [outsideReason, bad] using refused

/-- Settles O8, by the sequencer's move as its agent's bus step. -/
theorem stepRunsSequencedTransaction : Obligations.StepRunsSequencedTransaction := by
  intro s t a m i ms wf script own next run
  have next' : seqInstr a { s with script := ms } = some i := by
    rw [← next]
    cases a <;> rfl
  rw [step_of_script wf script, takeMove_sequencer own next', agentStep, next']
  simp only [transact, run]

/-! ## The free choice (log entry 1) -/

/-- The free choice is an enabled step of the machine's own agents. -/
theorem freeChoice_enabled (s : State) : ownMove (freeChoice s) = true ∧ enabled (freeChoice s) s = true := by
  unfold freeChoice
  split
  · next drawn => exact (Bool.and_eq_true ..).mp drawn
  · exact ⟨rfl, rfl⟩

theorem enabled_draws (m : Move) (s : State) (n : Nat) : enabled m { s with draws := n } = enabled m s := by
  cases m <;> rfl

theorem nextMove_of_empty (script : s.script = []) : nextMove s = (freeChoice s, { s with draws := s.draws + 1 }) := by
  unfold nextMove
  split
  · next scripted => cases script.symm.trans scripted
  · rfl

/-- Settles O9, by the free choice. -/
theorem emptyScriptTakesEnabledMove : Obligations.EmptyScriptTakesEnabledMove := by
  intro s wf script
  obtain ⟨own, able⟩ := freeChoice_enabled s
  refine ⟨freeChoice s, own, able, ?_⟩
  rw [step, if_pos wf, nextMove_of_empty script, takeMove, if_pos ((enabled_draws ..).trans able)]

/-- Settles O10: the broken constraints are those of which the check of R10 is made. -/
theorem badParametersDoNotStart : Obligations.BadParametersDoNotStart := by
  intro s broken constraints
  have check : broken ↔ ¬ s.params.wf = true := by
    rw [constraints, Params.not_wf_iff]
    simp only [not_oneBit_iff, or_assoc]
    rfl
  refine ⟨fun bad => ?_, fun good => ?_⟩
  · rw [step, if_neg (check.1 bad)]
  · rw [step, if_pos (Classical.not_not.1 (mt check.2 good))]

end Sys2Proof.Machine
end

section
/-!
PROOFS. The commands as they are issued (R35, R108, R114-R124, R147), raw accesses from outside the sequences (R45-R49,
R88), BOOT's start (R162-R167) and the system reset (R136, R137).
-/
namespace Sys2Proof

/-- A register's address is in the block's region, at its offset (R45, R46). -/
theorem regAddr_sub_base (p : Params) (r : Reg) : ¬ regAddr p r < p.base ∧ regAddr p r - p.base = regOffset p r := by
  simp [regAddr]

theorem regAddr_aligned {p : Params} (hp : p.wf = true) (r : Reg) : regAddr p r % 4 = 0 := by
  obtain ⟨base, _⟩ := Params.wf_offsets hp
  have off := regOffset_aligned hp r
  unfold regAddr
  omega

/-- An offset in the region is a register's when its address is (R46). -/
theorem eq_regAddr {p : Params} {addr : Nat} {r : Reg} (inside : ¬ addr < p.base)
    (off : addr - p.base = regOffset p r) : addr = regAddr p r := by
  unfold regAddr
  omega

theorem regAddr_inj {p : Params} (hp : p.wf = true) {r r' : Reg} (h : regAddr p r = regAddr p r') : r = r' :=
  regOffset_inj hp (Nat.add_left_cancel h)

/-- Only WR_CTRL has values that are not admitted (R72). -/
theorem regInstr_wf_iff {p : Params} {v : Word} {r : Reg} :
    (regInstr v r).wf p = true ↔ (r = .ctrl → v ∈ p.ctrlValues) := by
  cases r
  case ctrl => simp [regInstr, wrCtrl_wf_iff]
  all_goals simp [regInstr, Instr.wf]

end Sys2Proof

namespace Sys2Proof.Machine

variable {s : State} {a : Agent} {d : Dir} {addr bytes : Nat} {v delta : Word} {i : Instr} {e : Reason} {p : Params}

/-! ## ARM, DISABLE, IRQ_ENTRY -/

theorem exec_arm_unmapped (unmapped : s.mapped = false) :
    exec (.arm delta) s = .next (s.ret .event .errUnavailable) := if_pos unmapped

theorem exec_arm_starts (mapped : s.mapped = true) (nonzero : delta ≠ 0#32) (free : s.eventBusy = false) :
    exec (.arm delta) s = .next (s.startEvent .a1 delta) := by
  simp [exec, execArm, mapped, nonzero, free]

theorem exec_disable_unmapped (unmapped : s.mapped = false) : exec .disable s = .next (s.refuse .unmappedAccess) :=
  if_pos unmapped

theorem exec_disable_starts (mapped : s.mapped = true) (free : s.eventBusy = false) :
    exec .disable s = .next (s.startEvent .d1 s.event.delta) := by
  simp [exec, execDisable, mapped, free]

theorem exec_irqEntry_takes (line : s.issuer = .irqh) (notCb : s.irqh.step ≠ .cb) (entry : s.irqEnabled = true)
    (mapped : s.mapped = true) (handler : s.handler.isSome = true) :
    exec .irqEntry s = .next s.takeInterrupt := by
  have registered : s.handler ≠ none := Option.isSome_iff_ne_none.1 handler
  simp [exec, execIrqEntry, line, notCb, entry, mapped, registered]

/-- Settles O18: the event path is free, and ARM starts on EVENT. -/
theorem armStarts : Obligations.ArmStarts := fun _ _ mapped nonzero idle not1 not2 =>
  exec_arm_starts mapped nonzero (eventBusy_eq_false_iff.2 ⟨idle, not1, not2⟩)

/-- Settles O19, by the checks of ARM in their order. -/
theorem armChecksInOrder : Obligations.ArmChecksInOrder := fun _ _ =>
  ⟨exec_arm_unmapped, exec_arm_zero, exec_arm_busy⟩

/-- Settles O23, by the checks of DISABLE. -/
theorem disableStarts : Obligations.DisableStarts := fun _ =>
  ⟨exec_disable_starts, exec_disable_unmapped, exec_disable_busy⟩

/-- Settles O31, by the last check of IRQ_ENTRY. -/
theorem irqEntryTakesInterrupt : Obligations.IrqEntryTakesInterrupt := fun _ line notCb entry mapped =>
  ⟨exec_irqEntry_takes line notCb entry mapped, exec_irqEntry_no_handler line notCb entry mapped⟩

/-! ## Raw accesses -/

/-- An access that names a transaction is a 32-bit one at a register's address in its direction (R47-R49). -/
theorem accessInstr_ok (h : accessInstr p d addr bytes v = .ok i) :
    bytes = 4 ∧ addr % 4 = 0 ∧ ¬ addr < p.base ∧ ∃ r, addr = regAddr p r ∧ d = regDir r ∧ i = regInstr v r := by
  unfold accessInstr at h
  split at h
  · cases h
  next width =>
    split at h
    · cases h
    next aligned =>
      split at h
      · cases h
      next inside =>
        obtain ⟨r, off, dir, instr⟩ := transactionAt_ok h
        exact ⟨Classical.not_not.1 width, Classical.not_not.1 aligned, inside, r, eq_regAddr inside off, dir, instr⟩

theorem transactionAt_error {off : Nat} (h : transactionAt p d off v = .error e) :
    e ∈ [Reason.badWidth, .misaligned, .badOffset, .badDirection] := by
  unfold transactionAt at h
  repeat' split at h
  all_goals cases h
  all_goals decide

/-- The reasons that refuse an access (R88). -/
theorem accessInstr_error (h : accessInstr p d addr bytes v = .error e) :
    e ∈ [Reason.badWidth, .misaligned, .badOffset, .badDirection] := by
  unfold accessInstr at h
  repeat' split at h
  case isFalse.isFalse.isFalse => exact transactionAt_error h
  all_goals cases h
  all_goals decide

theorem accessInstr_regAddr (hp : p.wf = true) (r : Reg) (v : Word) :
    accessInstr p (regDir r) (regAddr p r) 4 v = .ok (regInstr v r) := by
  obtain ⟨inside, off⟩ := regAddr_sub_base p r
  rw [accessInstr, if_neg (by decide), if_neg (by simp [regAddr_aligned hp r]), if_neg inside, off,
    transactionAt_regOffset hp r v]

theorem takeMove_access_named (h : accessInstr s.params d addr bytes v = .ok i) :
    takeMove (.access a d addr bytes v) s = exec i { s with master := .host } := by
  show presentAccess d addr bytes v s = _
  rw [presentAccess, h]
  rfl

theorem takeMove_access_bad (h : accessInstr s.params d addr bytes v = .error e) :
    takeMove (.access a d addr bytes v) s = .next (s.refuse e) := by
  show presentAccess d addr bytes v s = _
  rw [presentAccess, h]

/-- Settles O48: an access that is wrong in one of the ways names no transaction. -/
theorem badAccessesRefused : Obligations.BadAccessesRefused := by
  intro s a d addr bytes v hp bad
  cases h : accessInstr s.params d addr bytes v with
  | error e => exact ⟨e, accessInstr_error h, takeMove_access_bad h⟩
  | ok i =>
    obtain ⟨width, aligned, inside, r, at_r, dir, _⟩ := accessInstr_ok h
    obtain wide | misaligned | below | nowhere | ⟨r', at_r', otherWay⟩ := bad
    · exact absurd width wide
    · exact absurd aligned misaligned
    · exact absurd below inside
    · exact absurd at_r (nowhere r)
    · cases regAddr_inj hp (at_r.symm.trans at_r')
      exact absurd dir otherWay

/-- Why a transaction from outside the sequences is refused: R84's value check at CTRL, else its agent. -/
theorem outsideReason_regInstr (r : Reg) (v : Word) (p : Params) :
    outsideReason (regInstr v r) p =
      if r = .ctrl ∧ v ∉ p.ctrlValues then .reservedCtrlValue else .notOwner := by
  unfold outsideReason
  by_cases admitted : (regInstr v r).wf p = true
  · have listed := regInstr_wf_iff.1 admitted
    rw [if_pos admitted, if_neg fun ⟨ctrl, unlisted⟩ => unlisted (listed ctrl)]
  · rw [if_neg admitted, if_pos (Classical.not_imp.1 (mt regInstr_wf_iff.2 admitted))]

/-- Settles O49: the access names its register's transaction, which HOST's side of the bus may not perform. -/
theorem goodAccessNamesTransactionButRefused : Obligations.GoodAccessNamesTransactionButRefused := by
  intro s a r v hp
  have named := accessInstr_regAddr hp r v
  have run := takeMove_access_named (a := a) named
  refine ⟨named, run, ?_⟩
  rw [run, exec_bus_host (regInstr_format v r), outsideReason_regInstr]
  rfl

/-! ## BOOT's start, the system reset -/

/-- Settles O53, by BOOT's check of MAPPED and its two aborts. -/
theorem bootAbortsOrRefuses : Obligations.BootAbortsOrRefuses := by
  have start (s : State) (b : BootInput) : takeMove (.boot b) s = bootStart b s := rfl
  refine fun s => ⟨fun unmapped => ?_, fun mapped b => ?_⟩
  · simp [start, bootStart, unmapped]
  · simp [start, bootStart, mapped]

theorem enabled_sysreset_iff : enabled .sysreset s = true ↔ s.rst = .halted := by
  simp [enabled]

theorem takeMove_sysreset (halted : s.rst = .halted) : takeMove .sysreset s = .next s.systemReset := by
  rw [takeMove, if_pos (enabled_sysreset_iff.2 halted)]
  rfl

/-- Settles O38, by the fields of the state after a system reset. -/
theorem systemResetEffect : Obligations.SystemResetEffect := fun s =>
  ⟨enabled_sysreset_iff, fun halted =>
    ⟨_, takeMove_sysreset halted, systemReset_agentsIdle s, rfl, rfl, rfl, rfl, rfl, rfl, rfl, rfl, rfl, rfl⟩⟩

end Sys2Proof.Machine
end

section
/-!
PROOFS. Frames: what a bus transaction, an issued command and a move leave unchanged (R13, R21, R36, R52, R58, R80,
R102), and which moves change the counter, the countdown and the handler's activity (R22, R32, R137, R151).
-/
namespace Sys2Proof.Machine

variable {s t : State} {m : Move} {i : Instr} {a : Agent} {k : Nat} {r : Reg} {p : Params}

/-! ## Records (R80) -/

/-- An admitted transaction records itself: on its register, in the register's direction, at its offset (R41). -/
theorem BusEffect.record (e : BusEffect i s t) (admitted : busAdmitted i s = true) (reg : busReg i = some r) :
    ∃ v, t.hist = s.hist ++ [.bus s.master (regDir r) (regOffset s.params r) v] := by
  cases e with
  | refused _ no _ => rw [admitted] at no; cases no
  | read r' reg' dir _ eq => cases reg.symm.trans reg'; exact ⟨_, by rw [eq, dir]⟩
  | write r' reg' dir _ eq =>
    cases reg.symm.trans reg'
    refine ⟨storeData i, ?_⟩
    rw [eq, dir]
    cases i <;> rfl

theorem BusEffect.hist_of_refused (e : BusEffect i s t) (no : busAdmitted i s = false) : t.hist = s.hist := by
  obtain ⟨_, same⟩ | ⟨yes, _⟩ := e.hist_eq
  · exact same
  · rw [no] at yes
    cases yes

/-- What joins the history holds no bus record. -/
def Unrecorded (s t : State) : Prop := ∃ es, t.hist = s.hist ++ es ∧ ∀ a d off v, Event.bus a d off v ∉ es

theorem unrecorded_of_same (same : t.hist = s.hist) : Unrecorded s t := ⟨[], by simp [same], by simp⟩

theorem unrecorded_of_one {x : Event} (joins : t.hist = s.hist ++ [x]) (other : ∀ a d off v, .bus a d off v ≠ x) :
    Unrecorded s t := ⟨[x], joins, fun a d off v mem => other a d off v (List.mem_singleton.1 mem)⟩

theorem seqAfter_unrecorded (a : Agent) (s : State) : Unrecorded s (seqAfter a s) := by
  obtain same | ⟨_, _, ret⟩ := seqAfter_hist a s
  · exact unrecorded_of_same same
  · exact unrecorded_of_one ret (by simp)

theorem IssueEffect.unrecorded (e : IssueEffect i s t) : Unrecorded s t := by
  obtain ⟨_, same | ret | ret⟩ := e.hist_cases
  · exact unrecorded_of_same same
  · exact unrecorded_of_one ret (by simp)
  · exact unrecorded_of_one ret (by simp)

/-- A move records no transaction, or it is a sequencer's move and records the admitted one its sequence names. -/
theorem MoveEffect.records (e : MoveEffect m s t) :
    Unrecorded s t ∨
      ∃ a i r u v,
        ((∃ k, m = .reader k ∧ a = .reader k) ∨ (m = .event ∧ a = .event) ∨ (m = .irqh ∧ a = .irqh) ∨
          (m = .rst ∧ a = .rst)) ∧
        seqInstr a s = some i ∧ busReg i = some r ∧ permitted r a = true ∧
        u.hist = s.hist ++ [.bus a (regDir r) (regOffset s.params r) v] ∧ Unrecorded u t := by
  cases e
  case issue eff | bootDisable eff | callbackOp eff => exact .inl eff.unrecorded
  case sequenced a i u move next eff eq =>
    have own := move.imp_right (Or.imp_right (Or.imp_left fun ⟨mv, ag, _⟩ => And.intro mv ag))
    rw [eq]
    split
    · next admitted =>
      obtain ⟨r, reg, owner, _⟩ := busAdmitted_iff.1 admitted
      obtain ⟨v, recorded⟩ := eff.record admitted reg
      exact .inr ⟨a, i, r, u, v, own, next, reg, owner, recorded, seqAfter_unrecorded a u⟩
    · next refused => exact .inl (unrecorded_of_same (eff.hist_of_refused (Bool.eq_false_iff.2 refused)))
  case tick eq | callback eq | returned eq | sysreset eq =>
    subst eq
    exact .inl (unrecorded_of_one rfl (by simp))
  case refused eq | callbackBadWord eq | bootStart eq | bootAborted eq | bootCe eq | bootIrq eq | bootCs eq |
      bootDone eq | retired eq | presented eq | callbackDone eq =>
    subst eq
    exact .inl (unrecorded_of_same rfl)

/-- The check of R53 and MAPPED refuses a well-formed transaction by its reason. -/
theorem exec_of_busCheck {e : Reason} (reg : busReg i = some r) (wf : i.wf s.params = true)
    (check : busCheck r s = some e) : exec i s = .next (s.refuse e) := by
  cases i <;> cases reg
  case wrCtrl v =>
    have listed : ¬ s.params.ctrlValues.contains v = false := by
      rw [Bool.not_eq_false]
      exact wf
    simp only [exec, execWrCtrl, if_neg listed, busWrite, check]
  all_goals
    simp only [exec, execRdCntLo, execRdCntHi, execWrLoad, execWrRst20, execWrRst24, execWrRst2C, busRead, busWrite,
      check]

/-- Settles O46: the records by what a move records, the refusals by the two checks in their order. -/
theorem onlyOwnersTransact : Obligations.OnlyOwnersTransact := by
  refine ⟨fun s t m taken => ?_, fun s i r reg wf => ⟨fun other => ?_, fun owner unmapped => ?_⟩⟩
  · obtain ⟨es, joins, none⟩ | ⟨a, i, r, u, v, own, next, reg, owner, recorded, es, joins, none⟩ :=
      (takeMove_effect taken).records
    · exact ⟨es, joins, fun a d off v mem => absurd mem (none a d off v)⟩
    · refine ⟨.bus a (regDir r) (regOffset s.params r) v :: es, by simp [joins, recorded], fun a' d off v' mem => ?_⟩
      obtain same | old := List.mem_cons.1 mem
      · cases same
        exact ⟨own, i, r, next, reg, owner, rfl, rfl⟩
      · exact absurd old (none a' d off v')
  · exact exec_of_busCheck reg wf (by simp [busCheck, mt permitted_iff.1 other])
  · exact exec_of_busCheck reg wf (by simp [busCheck, owner, unmapped])

/-! ## The counter and the countdown's registers -/

/-- A move changes the counter at a tick and at a system reset's draw only (R22, R137). -/
theorem MoveEffect.cnt_cases (e : MoveEffect m s t) :
    t.cnt = s.cnt ∨ (m = .tick ∧ t.cnt = s.cnt + 1#64) ∨ m = .sysreset := by
  cases e
  case tick move eq => exact .inr (.inl ⟨move, by rw [eq]; rfl⟩)
  case sysreset move _ _ => exact .inr (.inr move)
  case issue eff | bootDisable eff | callbackOp eff => exact .inl eff.cnt_eq
  case sequenced eff eq =>
    rw [eq]
    split <;> simp [eff.cnt_eq]
  all_goals
    rename_i eq
    exact .inl (eq ▸ rfl)

/-- Settles O59, by what a move does to CNT and to the parameters. -/
theorem counterChangesOnlyAtTick : Obligations.CounterChangesOnlyAtTick := fun _ _ _ taken =>
  ⟨takeMove_params taken, (takeMove_effect taken).cnt_cases⟩

/-- A transaction leaves the countdown's registers alone, or is an admitted WR_LOAD or WR_CTRL (R83, R84). -/
theorem BusEffect.timer_cases (e : BusEffect i s t) :
    t.timer = s.timer ∨ (∃ v, i = .wrLoad v ∧ t.timer = writeLoad s.params v s.timer) ∨
      ∃ v, i = .wrCtrl v ∧ v ∈ s.params.ctrlValues ∧ t.timer = writeCtrl s.params v s.timer ∧
        t.hist = s.hist ++ [.bus s.master .write s.params.ctrlOff v] := by
  cases e with
  | refused _ _ eq => exact .inl (eq ▸ rfl)
  | read _ _ _ _ eq => exact .inl (eq ▸ rfl)
  | write r reg _ admitted eq =>
    subst eq
    obtain ⟨v, r', rfl⟩ := eq_regInstr_of_format (format_of_busReg reg)
    cases r'
    case load => exact .inr (.inl ⟨v, rfl, rfl⟩)
    case ctrl =>
      cases reg
      obtain ⟨_, _, _, _, wf⟩ := busAdmitted_iff.1 admitted
      exact .inr (.inr ⟨v, rfl, wrCtrl_wf_iff.1 wf, rfl, rfl⟩)
    all_goals exact .inl rfl

/-- What a move does to the countdown's registers: a tick, a WR_LOAD, a recorded WR_CTRL, a system reset, or nothing. -/
theorem MoveEffect.timer_cases (e : MoveEffect m s t) :
    t.timer = s.timer ∨ (m = .tick ∧ t.timer = countdownTick s.params s.timer) ∨
      (∃ v, t.timer = writeLoad s.params v s.timer) ∨
      (∃ v a es, v ∈ s.params.ctrlValues ∧ t.timer = writeCtrl s.params v s.timer ∧
        t.hist = s.hist ++ [.bus a .write s.params.ctrlOff v] ++ es) ∨ m = .sysreset := by
  cases e
  case tick move eq => exact .inr (.inl ⟨move, by rw [eq]; rfl⟩)
  case sysreset move _ _ => exact .inr (.inr (.inr (.inr move)))
  case issue eff | bootDisable eff | callbackOp eff => exact .inl eff.timer_eq
  case sequenced a i u _ _ eff eq =>
    have timer : t.timer = u.timer := by
      rw [eq]
      split
      · exact seqAfter_timer a u
      · rfl
    obtain ⟨es, joins⟩ : ∃ es, t.hist = u.hist ++ es := by
      rw [eq]
      split
      · obtain ⟨es, joins, _⟩ := seqAfter_unrecorded a u
        exact ⟨es, joins⟩
      · exact ⟨[], by simp⟩
    rw [timer]
    obtain same | ⟨v, _, load⟩ | ⟨v, _, listed, ctrl, recorded⟩ := eff.timer_cases
    · exact .inl same
    · exact .inr (.inr (.inl ⟨v, load⟩))
    · exact .inr (.inr (.inr (.inl ⟨v, a, es, listed, ctrl, by rw [joins, recorded]⟩)))
  all_goals
    rename_i eq
    exact .inl (eq ▸ rfl)

theorem writeLoad_ref (ref : p.policy = .ref) (v : Word) (c : Countdown) : writeLoad p v c = { c with load := v } :=
  loadWrite_ref ref v c

theorem writeCtrl_ref (ref : p.policy = .ref) (hp : p.wf = true) {v : Word} (listed : v ∈ p.ctrlValues)
    (c : Countdown) :
    writeCtrl p v c =
      if v = p.stop then { c with ctrl := v, en := false, pend := false }
      else { c with ctrl := v, cur := c.load, en := decide (v ≠ p.update) } :=
  (ctrlWrite_ref ref v _).trans (refCtrlWrite_of_mem hp listed _)

/-- REF's tick sets PEND by a fire, and never clears it (R112). -/
theorem refTick_pend (c : Countdown) :
    (c.pend = false → (refTick c).pend = true → c.en = true ∧ c.cur.toNat ≤ 1) ∧
      (c.pend = true → (refTick c).pend = true) := by
  cases counting : c.en with
  | false => simp [refTick_stopped counting]
  | true =>
    by_cases last : c.cur.toNat ≤ 1
    · simp [refTick_fires counting last, last]
    · rw [refTick_counts counting (Nat.lt_of_not_le last)]
      exact ⟨fun clear pending => absurd (clear.symm.trans pending) (by decide), id⟩

/-- Settles O58: of what a move does to the countdown's registers, a tick's fire sets PEND and a STOP clears it. -/
theorem pendSetByFireClearedByStop : Obligations.PendSetByFireClearedByStop := by
  intro s t m hp ref taken noReset
  have differ {P : Prop} {b : Bool} (h : b = false) (h' : b = true) : P := absurd (h.symm.trans h') (by decide)
  obtain same | ⟨tick, timer⟩ | ⟨v, timer⟩ | ⟨v, a, es, listed, timer, hist⟩ | reset :=
    (takeMove_effect taken).timer_cases
  · rw [same]
    exact ⟨differ, fun set clear => differ clear set⟩
  · rw [timer, countdownTick_ref ref]
    obtain ⟨fires, keeps⟩ := refTick_pend s.timer
    exact ⟨fun clear set => ⟨tick, fires clear set⟩, fun set clear => differ clear (keeps set)⟩
  · rw [timer, writeLoad_ref ref]
    exact ⟨differ, fun set clear => differ clear set⟩
  · rw [timer, writeCtrl_ref ref hp listed]
    by_cases stop : v = s.params.stop
    · rw [if_pos stop]
      exact ⟨fun _ set => (by cases set), fun _ _ => ⟨stop, a, es, stop ▸ hist⟩⟩
    · rw [if_neg stop]
      exact ⟨differ, fun set clear => differ clear set⟩
  · exact absurd reset noReset

/-! ## The handler's activity (R151) -/

theorem seqAfter_active (a : Agent) (s : State) : (seqAfter a s).irqh.active = s.irqh.active := by
  obtain h | ⟨_, _, _, reader, h⟩ | ⟨_, _, h, _⟩ | ⟨_, _, h⟩ | ⟨_, _, h, _⟩ | ⟨_, h⟩ := seqAfter_cases a s <;> rw [h]
  · rw [readerAfter_eq reader]
    split <;> rfl
  all_goals rfl

theorem IssueEffect.active_kept (e : IssueEffect i s t) (active : s.irqh.active = true) : t.irqh.active = true := by
  cases e with
  | irqEntry _ _ _ _ _ _ eq => exact eq ▸ rfl
  | _ => rename_i eq; exact eq ▸ active

/-- Only the handler's return and a system reset make IRQH inactive (R36, R151). -/
theorem MoveEffect.active_cases (e : MoveEffect m s t) (active : s.irqh.active = true) :
    t.irqh.active = true ∨ (m = .irqh ∧ s.irqh.step = .ret) ∨ m = .sysreset := by
  cases e
  case returned move ret _ => exact .inr (.inl ⟨move, ret⟩)
  case sysreset move _ _ => exact .inr (.inr move)
  case issue eff | bootDisable eff | callbackOp eff => exact .inl (eff.active_kept active)
  case sequenced a i u _ _ eff eq =>
    have kept : u.irqh.active = true := eff.irqh_eq ▸ active
    rw [eq]
    split
    · exact .inl ((seqAfter_active a u).trans kept)
    · exact .inl kept
  all_goals
    rename_i eq
    exact .inl (eq ▸ active)

/-- Settles O34: an entry asks for an inactive IRQH (R124), and only the return and a system reset end the activity. -/
theorem handlerDoesNotNest : Obligations.HandlerDoesNotNest := by
  intro s t m _ active taken
  refine ⟨?_, (takeMove_effect taken).active_cases active⟩
  rintro rfl
  have notEnabled : enabled .irq s = false := by simp [enabled, State.irqEnabled, active]
  simp [takeMove, notEnabled, disabledMove] at taken

/-! ## READERs (R58, R102) -/

/-- A READER's move: its end, or its bus step. -/
theorem takeMove_reader_cases (taken : takeMove (.reader k) s = .next t) :
    (∃ r, s.readers[k]? = some r ∧ r.step = .done ∧ t = s.setReader k r.toIdle) ∨
      agentStep (.reader k) s = .next t := by
  by_cases done : s.readerDone k = true
  · obtain ⟨r, reader, atDone⟩ := readerDone_iff.1 done
    rw [takeMove_reader_done reader atDone] at taken
    cases taken
    exact .inl ⟨r, reader, atDone, rfl⟩
  · simp only [takeMove, enabled, runMove, if_neg done, disabledMove] at taken
    split at taken
    · exact .inr taken
    · split at taken <;> cases taken

/-- A READER's sequence names reads only (R97). -/
theorem reader_reads (next : seqInstr (.reader k) s = some i) (reg : busReg i = some r) : regDir r = .read := by
  simp only [seqInstr, Option.bind_eq_some_iff, Reader.nextInstr] at next
  obtain ⟨q, _, next⟩ := next
  cases step : q.step <;> rw [step] at next <;> cases next <;> cases reg <;> rfl

/-- A transaction that writes nothing is refused or a read. -/
theorem BusEffect.registers_of_read (e : BusEffect i s t) (read : ∀ r, busReg i = some r → regDir r = .read) :
    t.cnt = s.cnt ∧ t.timer = s.timer ∧ t.rst20 = s.rst20 ∧ t.rst24 = s.rst24 ∧ t.rst2C = s.rst2C := by
  cases e with
  | refused _ _ eq => exact eq ▸ ⟨rfl, rfl, rfl, rfl, rfl⟩
  | read _ _ _ _ eq => exact eq ▸ ⟨rfl, rfl, rfl, rfl, rfl⟩
  | write r reg dir _ _ => cases dir.symm.trans (read r reg)

/-- Settles O17: the counter and a READER by what other moves can do; a READER's move is a read, or its end. -/
theorem readersUndisturbed : Obligations.ReadersUndisturbed := by
  refine ⟨fun s t m k taken noTick noReset other issued => ?_, fun s t k taken => ?_⟩
  · refine ⟨?_, takeMove_reader_kept taken issued other noReset⟩
    obtain same | ⟨tick, _⟩ | reset := (takeMove_effect taken).cnt_cases
    · exact same
    · exact absurd tick noTick
    · exact absurd reset noReset
  · obtain ⟨r, _, _, rfl⟩ | step := takeMove_reader_cases taken
    · exact ⟨rfl, rfl, rfl, rfl, rfl, rfl, rfl, rfl, fun j other => List.getElem?_set_ne other.symm⟩
    · obtain ⟨i, u, next, eff, rfl⟩ := agentStep_cases step
      obtain ⟨cnt, timer, rst20, rst24, rst2C⟩ := eff.registers_of_read fun r reg => reader_reads next reg
      split
      · have irqh : (seqAfter (.reader k) u).irqh.step = u.irqh.step := by
          obtain same | ended := seqAfter_irqh (s := u) (a := .reader k) (by simp)
          · rw [same]
          · rw [ended]
        refine ⟨(seqAfter_cnt ..).trans cnt, (seqAfter_timer ..).trans timer, (seqAfter_rst20 ..).trans rst20,
          (seqAfter_rst24 ..).trans rst24, (seqAfter_rst2C ..).trans rst2C,
          (seqAfter_event (by simp)).trans eff.event_eq, (seqAfter_rst (by simp)).trans eff.rst_eq,
          irqh.trans (eff.irqh_eq ▸ rfl), fun j other => ?_⟩
        rw [seqAfter_reader (by simpa using other.symm), eff.readers_eq]
      · exact ⟨cnt, timer, rst20, rst24, rst2C, eff.event_eq, eff.rst_eq, eff.irqh_eq ▸ rfl,
          fun j _ => eff.readers_eq ▸ rfl⟩

/-! ## The address space (R21, R45) -/

/-- The word at an address is its register's value. -/
theorem wordAt_congr {addr : Nat} (params : t.params = s.params)
    (value : ∀ r, addr = regAddr s.params r → t.regValue r = s.regValue r) : t.wordAt addr = s.wordAt addr := by
  unfold State.wordAt
  rw [params]
  split
  · rfl
  · next inside =>
    cases at_r : regAt s.params (addr - s.params.base) with
    | none => rfl
    | some r => exact congrArg some (value r (eq_regAddr inside (regAt_eq_some at_r)))

theorem regValue_congr (cnt : t.cnt = s.cnt) (timer : t.timer = s.timer) (rst20 : t.rst20 = s.rst20)
    (rst24 : t.rst24 = s.rst24) (rst2C : t.rst2C = s.rst2C) (r : Reg) : t.regValue r = s.regValue r := by
  cases r <;> simp [State.regValue, cnt, timer, rst20, rst24, rst2C]

/-- Settles O51, by what issuing a command leaves alone. -/
theorem commandFrame : Obligations.CommandFrame := by
  intro s t i cmd run
  have eff := exec_cmd_effect cmd run
  refine ⟨fun addr => wordAt_congr eff.params_eq fun r _ =>
      regValue_congr eff.cnt_eq eff.timer_eq eff.rst20_eq eff.rst24_eq eff.rst2C_eq r,
    eff.cnt_eq, eff.timer_eq, eff.rst20_eq, eff.rst24_eq, eff.rst2C_eq, eff.mapped_eq, eff.handler_eq, eff.regCe_eq,
    eff.regCs_eq, eff.irqReq_eq, eff.boot_eq, eff.params_eq, eff.script_eq, eff.hist_cases, ?_, ?_, ?_⟩
  · intro other
    cases eff with
    | read64 instr _ _ => exact absurd instr other
    | _ => rename_i eq; exact eq ▸ rfl
  · intro other
    cases eff with
    | reset instr _ _ _ _ => exact absurd instr other
    | _ => rename_i eq; exact eq ▸ rfl
  · intro notArm notDisable
    cases eff with
    | arm d instr _ _ _ _ => exact absurd instr (notArm d)
    | disable instr _ _ _ => exact absurd instr notDisable
    | _ => rename_i eq; exact eq ▸ rfl

/-- A write stores to its own register; under a free policy LOAD and CTRL may change together (R109, log entry 31). -/
theorem storeEffect_regValue (ref_or : s.params.policy = .ref ∨ (r ≠ .load ∧ r ≠ .ctrl) ∨
      (∀ v, i ≠ .wrLoad v ∧ i ≠ .wrCtrl v)) (other : busReg i ≠ some r) :
    (storeEffect i s).regValue r = s.regValue r := by
  have timerOnly {c : Countdown} (notTimer : r ≠ .load ∧ r ≠ .ctrl) :
      State.regValue { s with timer := c } r = s.regValue r := by
    cases r <;> first | rfl | exact absurd rfl notTimer.1 | exact absurd rfl notTimer.2
  cases i
  case wrLoad v =>
    obtain ref | notTimer | neither := ref_or
    · simp only [storeEffect, writeLoad_ref ref]
      cases r <;> first | rfl | exact absurd rfl other
    · exact timerOnly notTimer
    · exact absurd rfl (neither v).1
  case wrCtrl v =>
    obtain ref | notTimer | neither := ref_or
    · have load : (writeCtrl s.params v s.timer).load = s.timer.load := by
        rw [writeCtrl, ctrlWrite_ref ref, refCtrlWrite]
        split <;> rfl
      cases r <;> first | rfl | exact absurd rfl other | exact load
    · exact timerOnly notTimer
    · exact absurd rfl (neither v).2
  case wrRst20 v | wrRst24 v | wrRst2C v => cases r <;> first | rfl | exact absurd rfl other
  all_goals rfl

/-- Settles O50: a refusal or a read changes no register, and a write only its own. -/
theorem transactionFrame : Obligations.TransactionFrame := by
  intro s t i hp bus run
  have eff := exec_bus_effect bus run
  refine ⟨fun addr elsewhere ref_or => wordAt_congr eff.params_eq fun r at_r => ?_, eff.cnt_eq, eff.readers_eq,
    eff.event_eq, eff.irqh_eq, eff.rst_eq, eff.boot_eq, eff.mapped_eq, eff.handler_eq, eff.regCe_eq, eff.regCs_eq,
    eff.irqReq_eq, eff.faults_eq, eff.params_eq, eff.script_eq, fun notCtrl ref_or => ?_⟩
  · cases eff with
    | refused _ _ eq => exact eq ▸ regValue_congr rfl rfl rfl rfl rfl r
    | read _ _ _ _ eq => exact eq ▸ regValue_congr rfl rfl rfl rfl rfl r
    | write r' reg dir _ eq =>
      have other : busReg i ≠ some r := by
        intro same
        cases reg.symm.trans same
        exact elsewhere (by simp [storeAddr, reg, dir, at_r])
      have notTimer : addr ≠ regAddr s.params .load ∧ addr ≠ regAddr s.params .ctrl → r ≠ .load ∧ r ≠ .ctrl :=
        fun ⟨notLoad, notCtrl⟩ => ⟨fun e => notLoad (e ▸ at_r), fun e => notCtrl (e ▸ at_r)⟩
      subst eq
      exact (storeEffect_regValue (s := s.record _) (ref_or.imp_right (Or.imp_left notTimer)) other).trans
        (regValue_congr rfl rfl rfl rfl rfl r)
  · obtain same | ⟨v, load, timer⟩ | ⟨v, ctrl, _⟩ := eff.timer_cases
    · simp [same]
    · obtain ref | notLoad := ref_or
      · simp [timer, writeLoad_ref ref]
      · exact absurd load (notLoad v)
    · exact absurd ctrl (notCtrl v)

end Sys2Proof.Machine
end

section
/-!
PROOFS. READ64's guarantees (R97-R106): its steps one at a time, the value it returns as a function of the ticks between
its reads, exactness, monotonicity over two READERs, and the stale case.
-/
namespace Sys2Proof.Machine

variable {s start : State} {j k n g1 g2 g3 : Nat} {r r' : Reader} {rs : List Reader} {g : Reg} {c : DWord} {v : Word}
  {ms : List Move}

/-! ## One step at a time (R97, R101) -/

/-- A READER's move on a mapped block: the record of its read, its advance, and its return at DONE. -/
theorem takeMove_reader_advances (mapped : s.mapped = true) (reader : s.readers[k]? = some r)
    (reads : r.step.reads s.cnt = some (g, v)) :
    ∃ t, takeMove (.reader k) s = .next t ∧ t.readers[k]? = some (r.advance v) ∧
      t.hist = s.hist ++ [.bus (.reader k) .read (regOffset s.params g) v] ++ (r.advance v).returns k := by
  have reader' : (s.readBy k g v).readers[k]? = some r := reader
  exact ⟨_, takeMove_reader_reads mapped reader reads, seqAfter_reader_own reader', seqAfter_reader_hist reader'⟩

theorem enabled_reader_idle (reader : s.readers[k]? = some r) (idle : r.step = .idle) :
    enabled (.reader k) s = false := by
  simp [enabled, seqInstr, State.readerDone, State.reader?, reader, Reader.nextInstr, idle]

/-- Settles O12, step by step. -/
theorem readerStepsReadTestRead : Obligations.ReaderStepsReadTestRead := by
  intro s k r _ reader
  refine ⟨fun mapped flight => ?_, takeMove_reader_done reader, enabled_reader_idle reader⟩
  obtain ⟨step, hi1, lo, hi2, hi⟩ := r
  have advances {g : Reg} {v : Word} := takeMove_reader_advances (g := g) (v := v) mapped reader
  cases step <;> cases flight
  case s1.refl | s2.refl | s4.refl =>
    obtain ⟨t, move, own, hist⟩ := advances rfl
    refine ⟨t, move, ?_⟩
    simp [own, hist, Reader.advance, Reader.returns, Reader.result, regOffset]
  case s3.refl =>
    obtain ⟨t, move, own, hist⟩ := advances rfl
    refine ⟨t, move, ?_⟩
    by_cases same : hi1 = hi32 s.cnt <;>
      simp [own, hist, same, Reader.advance, Reader.returns, Reader.result, regOffset]

/-! ## The value as a function of the ticks (R98, R99) -/

theorem later_toNat (c : DWord) (n : Nat) : (later c n).toNat = (c.toNat + n) % 2 ^ 64 := by
  simp [later]

theorem later_zero (c : DWord) : later c 0 = c := by
  simp [later]

/-- The high half counts the rollovers of the low half (R91). -/
theorem hi32_later_toNat (c : DWord) (n : Nat) : (hi32 (later c n)).toNat = (c.toNat + n) / 2 ^ 32 % 2 ^ 32 := by
  rw [hi32_toNat, later_toNat]
  omega

/-- Without a rollover between them, two moments have the same high half. -/
theorem hi32_later_congr {m n : Nat} (h : (c.toNat + m) / 2 ^ 32 = (c.toNat + n) / 2 ^ 32) :
    hi32 (later c m) = hi32 (later c n) := by
  apply BitVec.eq_of_toNat_eq
  rw [hi32_later_toNat, hi32_later_toNat, h]

/-- What READ64 returns when it starts at the counter `c`, by the ticks between its reads. -/
def read64Value (c : DWord) (g1 g2 g3 : Nat) : DWord :=
  if highsDiffer c g1 g2 then pair (hi32 (later c (g1 + g2))) (lo32 (later c (g1 + g2 + g3)))
  else pair (hi32 c) (lo32 (later c g1))

theorem highsDiffer_iff : highsDiffer c g1 g2 = true ↔ hi32 (later c (g1 + g2)) ≠ hi32 c := by
  simp [highsDiffer]

/-- The ticks that fall in a READ64. -/
def read64Ticks (c : DWord) (g1 g2 g3 : Nat) : Nat := g1 + g2 + (if highsDiffer c g1 g2 then g3 else 0)

theorem read64Ticks_le (c : DWord) (g1 g2 g3 : Nat) : read64Ticks c g1 g2 g3 ≤ g1 + g2 + g3 := by
  unfold read64Ticks
  split <;> omega

/-- The moment of the low read that READ64 uses. -/
def usedLowRead (c : DWord) (g1 g2 g3 : Nat) : Nat := if highsDiffer c g1 g2 then read64Ticks c g1 g2 g3 else g1

theorem usedLowRead_le (c : DWord) (g1 g2 g3 : Nat) : usedLowRead c g1 g2 g3 ≤ read64Ticks c g1 g2 g3 := by
  unfold usedLowRead read64Ticks
  split <;> omega

/-- With at most one rollover in the read, no two reads are torn apart: the value is the counter's at the used low read
(R103, R104). -/
theorem read64Value_exact
    (rollovers : (c.toNat + read64Ticks c g1 g2 g3) / 2 ^ 32 ≤ c.toNat / 2 ^ 32 + 1) :
    read64Value c g1 g2 g3 = later c (usedLowRead c g1 g2 g3) := by
  unfold read64Value usedLowRead read64Ticks at *
  by_cases differ : highsDiffer c g1 g2 = true
  · simp only [if_pos differ] at rollovers ⊢
    have moved : (c.toNat + (g1 + g2)) / 2 ^ 32 ≠ (c.toNat + 0) / 2 ^ 32 := fun same =>
      highsDiffer_iff.1 differ (by rw [hi32_later_congr same, later_zero])
    have high : hi32 (later c (g1 + g2)) = hi32 (later c (g1 + g2 + g3)) := hi32_later_congr (by omega)
    rw [high, pair_hi32_lo32]
  · simp only [if_neg differ, Nat.add_zero] at rollovers ⊢
    have same : hi32 (later c (g1 + g2)) = hi32 c := Classical.not_not.1 (mt highsDiffer_iff.2 differ)
    have halves := congrArg BitVec.toNat same
    rw [hi32_later_toNat, hi32_toNat] at halves
    have high : hi32 (later c 0) = hi32 (later c g1) := hi32_later_congr (by omega)
    rw [later_zero] at high
    rw [high, pair_hi32_lo32]

/-- Fewer than 2^32 ticks hold at most one rollover. -/
theorem one_rollover {a n : Nat} (short : n < 2 ^ 32) : (a + n) / 2 ^ 32 ≤ a / 2 ^ 32 + 1 := by
  omega

/-- Settles O14: the value that joins the history last (R98, R99) is exact. -/
theorem read64IsExact : Obligations.Read64IsExact := by
  rintro s k g1 g2 g3 total r ms wf mapped reader first rfl script
  refine ⟨fun rollovers => ?_, one_rollover⟩
  obtain ⟨t, run, three, four⟩ := read64ResultAcrossTicks s k g1 g2 g3 r ms wf mapped reader first script
  have exact : read64Value s.cnt g1 g2 g3 = _ := read64Value_exact rollovers
  have returned : t.hist.getLast? = some (.ret (.reader k) (.value (read64Value s.cnt g1 g2 g3))) := by
    by_cases same : hi32 (later s.cnt (g1 + g2)) = hi32 s.cnt
    · obtain ⟨_, hist⟩ := three same
      rw [hist, List.getLast?_concat, read64Value, if_neg (mt highsDiffer_iff.1 (not_not_intro same))]
    · obtain ⟨_, hist⟩ := four same
      rw [hist, List.getLast?_concat, read64Value, if_pos (highsDiffer_iff.2 same)]
  exact ⟨t, run, returned.trans (by rw [exact]; rfl)⟩

/-! ## Two READERs (R105) -/

/-- A scripted move is one step of the run of the script. -/
theorem runScript_move {m : Move} {t : State} (wf : s.params.wf = true) (script : s.script = m :: ms)
    (move : takeMove m { s with script := ms } = .next t) (rest : t.script = ms) : s.runScript = t.runScript := by
  rw [State.runScript, script, State.runScript, rest]
  exact run_next wf script move

theorem runScript_ticks (wf : s.params.wf = true) (script : s.script = List.replicate n Move.tick ++ ms) :
    s.runScript = (s.afterTicks n ms).runScript := by
  rw [State.runScript, script, List.length_append, List.length_replicate]
  exact run_ticks wf script

/-- With no move left, the run has ended. -/
theorem runScript_ended (script : s.script = []) : s.runScript = .next s := by
  rw [State.runScript, script]
  exact run_zero

/-- The run of `start`'s script comes to a state of a mapped block in which the READERs are `rs`, the counter is `c` and
the moves `ms` remain. -/
def ReadersReach (start : State) (rs : List Reader) (c : DWord) (ms : List Move) : Prop :=
  ∃ s : State, start.runScript = s.runScript ∧ s.params.wf = true ∧ s.mapped = true ∧ s.readers = rs ∧ s.cnt = c ∧
    s.script = ms

namespace ReadersReach

theorem ticks (p : ReadersReach start rs c (List.replicate n Move.tick ++ ms)) :
    ReadersReach start rs (later c n) ms := by
  obtain ⟨s, run, wf, mapped, readers, cnt, script⟩ := p
  exact ⟨_, run.trans (runScript_ticks wf script), wf, mapped, readers, congrArg (later · n) cnt, rfl⟩

/-- A READER's move reads and advances that READER; the others stay (R58, R97). -/
theorem read (p : ReadersReach start rs c (.reader k :: ms)) (reader : rs[k]? = some r)
    (reads : r.step.reads c = some (g, v)) (advance : r.advance v = r') : ReadersReach start (rs.set k r') c ms := by
  obtain ⟨s, run, wf, mapped, readers, cnt, script⟩ := p
  subst advance
  have reader' : s.readers[k]? = some r := readers ▸ reader
  have move := takeMove_reader_reads (s := { s with script := ms }) mapped reader' (cnt ▸ reads)
  refine ⟨_, run.trans (runScript_move wf script move (seqAfter_script _ _)), (seqAfter_params _ _).symm ▸ wf,
    (seqAfter_mapped _ _).trans mapped, ?_, (seqAfter_cnt _ _).trans cnt, seqAfter_script _ _⟩
  have after := readerAfter_eq (s := State.readBy { s with script := ms } k g v) reader'
  rw [seqAfter, after, ← readers]
  split <;> rfl

/-- A whole READ64 with ticks between its reads: it is done with the value of R98 or R99. -/
theorem read64 (p : ReadersReach start rs c (readMoves k g1 g2 g3 (highsDiffer c g1 g2) ++ ms))
    (reader : rs[k]? = some r) (first : r.step = .s1) :
    ∃ r', r'.step = .done ∧ r'.result = read64Value c g1 g2 g3 ∧
      ReadersReach start (rs.set k r') (later c (read64Ticks c g1 g2 g3)) ms := by
  have issued : k < rs.length := (List.getElem?_eq_some_iff.1 reader).1
  have own (q : Reader) : (rs.set k q)[k]? = some q := List.getElem?_set_self issued
  obtain ⟨_, hi1, lo, hi2, hi⟩ := r
  cases first
  have one : ReadersReach start rs c (Move.reader k :: (List.replicate g1 Move.tick ++ Move.reader k ::
      (List.replicate g2 Move.tick ++ Move.reader k ::
        ((if highsDiffer c g1 g2 then List.replicate g3 Move.tick ++ [Move.reader k] else []) ++ ms)))) := by
    simpa [readMoves] using p
  have two := (one.read reader rfl rfl).ticks
  have three := (two.read (own _) rfl rfl).ticks
  rw [List.set_set, later_later] at three
  unfold read64Value read64Ticks
  by_cases differ : highsDiffer c g1 g2 = true
  · have other : hi32 c ≠ hi32 (later c (g1 + g2)) := (highsDiffer_iff.1 differ).symm
    simp only [if_pos differ, List.append_assoc] at three ⊢
    have four := (three.read (own _) rfl (if_neg other)).ticks
    rw [List.set_set, later_later] at four
    have last := four.read (own _) rfl rfl
    rw [List.set_set] at last
    refine ⟨_, ?_, ?_, last⟩ <;> rfl
  · have same : hi32 c = hi32 (later c (g1 + g2)) := (Classical.not_not.1 (mt highsDiffer_iff.2 differ)).symm
    simp only [if_neg differ, Nat.add_zero] at three ⊢
    have last := three.read (own _) rfl (if_pos same)
    rw [List.set_set] at last
    refine ⟨_, ?_, ?_, last⟩ <;> rfl

theorem ended (p : ReadersReach start rs c []) : ∃ t, start.runScript = .next t ∧ t.readers = rs := by
  obtain ⟨t, run, _, _, readers, _, script⟩ := p
  exact ⟨t, run.trans (runScript_ended script), readers⟩

end ReadersReach

/-- A counter that has not wrapped only grows (R93). -/
theorem later_le {m n : Nat} (le : m ≤ n) (noWrap : c.toNat + n < 2 ^ 64) :
    (later c m).toNat ≤ (later c n).toNat := by
  rw [later_toNat, later_toNat]
  omega

/-- Settles O15: both values are exact, and the second used low read is the later one. -/
theorem read64IsMonotonic : Obligations.Read64IsMonotonic := by
  intro s j k g1 g2 g3 g h1 h2 h3 ra rb c ms wf mapped other readerA firstA readerB firstB shortA shortB noWrap cnt
    script
  have start : ReadersReach { s with script := ms } s.readers s.cnt (readMoves j g1 g2 g3 (highsDiffer s.cnt g1 g2) ++
      (List.replicate g Move.tick ++ (readMoves k h1 h2 h3 (highsDiffer c h1 h2) ++ []))) :=
    ⟨_, rfl, wf, mapped, rfl, rfl, by simp [script]⟩
  obtain ⟨a, doneA, valueA, between⟩ := start.read64 readerA firstA
  have between := between.ticks
  rw [later_later] at between
  have cnt : c = later s.cnt (read64Ticks s.cnt g1 g2 g3 + g) := cnt
  rw [← cnt] at between
  obtain ⟨b, doneB, valueB, last⟩ := between.read64 ((List.getElem?_set_ne other).trans readerB) firstB
  obtain ⟨t, run, readers⟩ := last.ended
  have issuedA : j < s.readers.length := (List.getElem?_eq_some_iff.1 readerA).1
  have issuedB : k < s.readers.length := (List.getElem?_eq_some_iff.1 readerB).1
  refine ⟨t, a, b, run, ?_, ?_, doneA, doneB, ?_⟩
  · rw [readers, List.getElem?_set_ne other.symm, List.getElem?_set_self issuedA]
  · rw [readers, List.getElem?_set_self (by simpa using issuedB)]
  · have ticksA := read64Ticks_le s.cnt g1 g2 g3
    have ticksB := read64Ticks_le c h1 h2 h3
    have usedA := usedLowRead_le s.cnt g1 g2 g3
    have usedB := usedLowRead_le c h1 h2 h3
    have fromStart (n : Nat) : later c n = later s.cnt (read64Ticks s.cnt g1 g2 g3 + g + n) := by
      rw [cnt, later_later]
    rw [valueA, valueB, read64Value_exact (one_rollover (by omega)), read64Value_exact (one_rollover (by omega)),
      fromStart]
    exact later_le (by omega) (by omega)

/-! ## The stale case (R106) -/

/-- The halves of two reads, a number of rollovers apart. -/
theorem pair_stale (c : DWord) (n : Nat) :
    (pair (hi32 c) (lo32 (later c n))).toNat + 2 ^ 32 * ((c.toNat + n) / 2 ^ 32 - c.toNat / 2 ^ 32) = c.toNat + n := by
  rw [pair_toNat, hi32_toNat, lo32_toNat, later_toNat]
  omega

/-- Settles O16: from step 3 on, the fourth read brings only the low half up to date. -/
theorem read64StaleByRollovers : Obligations.Read64StaleByRollovers := by
  rintro s k g3 r ms wf mapped reader third differ noWrap script
  obtain ⟨_, hi1, lo, hi2, hi⟩ := r
  cases third
  have start : ReadReaches { s with script := ms } k _ s.cnt s.hist
      (Move.reader k :: (List.replicate g3 Move.tick ++ [Move.reader k])) :=
    ⟨_, rfl, wf, rfl, mapped, reader, rfl, rfl, by simp [script]⟩
  obtain ⟨t, run, last⟩ := (((start.read rfl (if_neg differ)).ticks).read rfl rfl).ended
  have cnt : t.cnt.toNat = s.cnt.toNat + g3 := by
    rw [last.cnt, later_toNat, Nat.mod_eq_of_lt noWrap]
  exact ⟨t, _, run, last.reader, rfl, cnt, (pair_stale s.cnt g3).trans cnt.symm⟩

end Sys2Proof.Machine
end

section
/-!
PROOFS. The countdown policies (R118): REF meets O1 to O5, and so does every policy that the parameters can name.
-/
namespace Sys2Proof.Machine

variable {p : Params} {m : Masks} {c : Countdown} {ops xs ys : List TimerOp} {n : Nat} {delta : Word}

/-! ## Ticks and loads under REF -/

/-- REF's tick does not look at LOAD. -/
theorem refTick_load (l : Word) (c : Countdown) : refTick { c with load := l } = { refTick c with load := l } := by
  simp only [refTick]
  repeat' split
  all_goals rfl

theorem refRun_ticks_load (l : Word) (n : Nat) (c : Countdown) :
    (refPolicy m).run (ticks n) { c with load := l } = { (refPolicy m).run (ticks n) c with load := l } := by
  induction n generalizing c with
  | zero => rfl
  | succ n ih => rw [refRun_ticks_succ, refRun_ticks_succ, refTick_load, ih]

/-- Ticks keep LOAD. -/
theorem refRun_ticks_load_eq (n : Nat) (c : Countdown) : ((refPolicy m).run (ticks n) c).load = c.load := by
  have kept := congrArg Countdown.load (refRun_ticks_load (m := m) c.load n c)
  exact kept

theorem tickCount_tick (ops : List TimerOp) : tickCount (.tick :: ops) = tickCount ops + 1 := by
  simp [tickCount]

theorem tickCount_load (v : Word) (ops : List TimerOp) : tickCount (.load v :: ops) = tickCount ops := by
  simp [tickCount]

theorem tickCount_append (xs ys : List TimerOp) : tickCount (xs ++ ys) = tickCount xs + tickCount ys :=
  List.countP_append

theorem tickCount_ticks (n : Nat) : tickCount (ticks n) = n := by
  simp [tickCount, ticks, List.countP_replicate]

/-- Without a CTRL write only the ticks count: the loads change LOAD at most (R110). -/
theorem refRun_noCtrl (noCtrl : ops.all TimerOp.notCtrl = true) (c : Countdown) :
    ∃ l, (refPolicy m).run ops c = { (refPolicy m).run (ticks (tickCount ops)) c with load := l } := by
  induction ops generalizing c with
  | nil => exact ⟨c.load, rfl⟩
  | cons op ops ih =>
    cases op with
    | tick =>
      rw [tickCount_tick, refRun_ticks_succ]
      exact ih noCtrl (refTick c)
    | load v =>
      obtain ⟨l, eq⟩ := ih noCtrl { c with load := v }
      rw [tickCount_load, Policy.run_cons, Policy.op_load, refPolicy_loadWrite, refLoadWrite, eq, refRun_ticks_load]
      exact ⟨l, rfl⟩
    | ctrl v => cases noCtrl

/-- Without a CTRL write a running countdown fires on the tick its count names. -/
theorem refRun_noCtrl_pend (noCtrl : ops.all TimerOp.notCtrl = true) (counting : c.en = true) :
    ((refPolicy m).run ops c).pend = (c.pend || decide (max 1 c.cur.toNat ≤ tickCount ops)) := by
  obtain ⟨l, eq⟩ := refRun_noCtrl (m := m) noCtrl c
  rw [eq]
  exact refRun_ticks_pend counting _

/-! ## REF meets the five obligations -/

/-- The last write before A4 puts delta into LOAD, and ticks keep it there. -/
theorem refRun_armToA4_load (g1 g2 g3 : Nat) (c : Countdown) :
    ((refPolicy m).run (armToA4 m delta g1 g2 g3) c).load = delta := by
  have split : armToA4 m delta g1 g2 g3 =
      (armToA2 g1 ++ [.ctrl (m.run ||| m.update)] ++ ticks g2) ++ .load delta :: ticks g3 := by
    simp [armToA4, guardWindow]
  rw [split, Policy.run_append, Policy.run_cons, refRun_ticks_load_eq]
  rfl

theorem refPolicy_meetsO1 (wf : p.wf = true) : (refPolicy (masksOf p)).MeetsO1 (masksOf p) := by
  intro c delta g1 g2 g3 ops nonzero clear noCtrl
  have positive : 1 ≤ delta.toNat := by bv_omega
  have a4 (c : Countdown) := refCtrlWrite_run wf { c with ctrl := p.run }
  rw [armOps, Policy.run_append, Policy.run_append, Policy.run_cons, Policy.op_ctrl, Policy.run_nil,
    refPolicy_ctrlWrite, masksOf_run, a4, refRun_noCtrl_pend noCtrl rfl]
  simp only [refRun_armToA4_load, clear, Bool.false_or, Nat.max_eq_right positive]

/-- Stopped with nothing pending, a countdown stays so without a RUN write. -/
theorem refRun_quiet (wf : p.wf = true) (noRun : ops.all (TimerOp.notRun (masksOf p)) = true) (stopped : c.en = false)
    (clear : c.pend = false) : ((refPolicy (masksOf p)).run ops c).pend = false := by
  induction ops generalizing c with
  | nil => exact clear
  | cons op ops ih =>
    obtain ⟨opNoRun, opsNoRun⟩ := (Bool.and_eq_true ..).mp noRun
    obtain ⟨opStopped, opPend⟩ := refOp_stopped wf opNoRun stopped
    refine ih opsNoRun opStopped ?_
    by_cases stop : op = .ctrl p.stop
    · rw [stop, Policy.op_ctrl, refPolicy_ctrlWrite, ← masksOf_stop, refCtrlWrite_stop]
    · rw [opPend stop, clear]

/-- DISABLE's writes under REF, with ticks between them: halted, nothing pending, CTRL at STOP, CUR at LOAD (R123). -/
theorem refRun_disable (wf : p.wf = true) (g : Nat) (c : Countdown) :
    (refPolicy (masksOf p)).run (disableOps (masksOf p) g) c =
      { load := c.load, ctrl := p.stop, cur := c.load, en := false, pend := false } := by
  have d1 : (refPolicy (masksOf p)).run [.ctrl p.update] c = _ := refCtrlWrite_update wf { c with ctrl := p.update }
  rw [disableOps, masksOf_update, Policy.run_append, Policy.run_append, d1, refRun_ticks_stopped rfl]
  exact refCtrlWrite_stop (masksOf p) _

theorem refPolicy_meetsO2 (wf : p.wf = true) : (refPolicy (masksOf p)).MeetsO2 (masksOf p) := by
  intro c g ops noRun
  rw [Policy.run_append, refRun_disable wf]
  exact ⟨rfl, rfl, rfl, refRun_quiet wf noRun rfl rfl⟩

theorem refPolicy_meetsO3 (wf : p.wf = true) : (refPolicy (masksOf p)).MeetsO3 (masksOf p) := by
  intro c g stopped clear
  refine ⟨refRun_quiet wf ?_ stopped clear, by rw [refRun_disable wf]⟩
  simp [TimerOp.notRun, ticks]

/-- ARM with no tick before its A2 forgets everything but PEND. -/
theorem refRun_arm_congr (wf : p.wf = true) {c d : Countdown} (pend : c.pend = d.pend) (h2 h3 : Nat) :
    (refPolicy (masksOf p)).run (armOps (masksOf p) delta 0 h2 h3) c =
      (refPolicy (masksOf p)).run (armOps (masksOf p) delta 0 h2 h3) d := by
  obtain ⟨rest, split⟩ : ∃ rest, armOps (masksOf p) delta 0 h2 h3 =
      [TimerOp.load Config.guardValue, TimerOp.ctrl (p.run ||| p.update)] ++ rest := by
    simp [armOps, armToA4, armToA2, guardWindow, ticks_zero]
  rw [split, Policy.run_append, Policy.run_append, refRun_armA1A2 wf c, refRun_armA1A2 wf d, pend]

theorem refPolicy_meetsO4 (wf : p.wf = true) : (refPolicy (masksOf p)).MeetsO4 (masksOf p) := by
  intro c a b g1 g2 g3 h2 h3 _ _
  rw [Policy.run_append]
  refine refRun_arm_congr wf ?_ h2 h3
  rfl

/-- Under the guard fewer ticks than it counts set nothing: at every point of the window PEND is as it was at A2. -/
theorem refRun_guardWindow_pend (wf : p.wf = true) {g2 g3 : Nat} (guarded : g2 + g3 < 0xFFFFFFFF)
    (window : guardWindow (masksOf p) delta g2 g3 = xs ++ ys) (loaded : c.load = Config.guardValue) :
    ((refPolicy (masksOf p)).run xs c).pend = c.pend := by
  cases xs with
  | nil => rfl
  | cons op xs =>
    have split : (.ctrl (p.run ||| p.update)) :: (ticks g2 ++ .load delta :: ticks g3) = op :: (xs ++ ys) := by
      simpa [guardWindow] using window
    obtain ⟨rfl, rest⟩ := List.cons.inj split
    have noCtrl : (xs ++ ys).all TimerOp.notCtrl = true := by
      simp [← rest, TimerOp.notCtrl, ticks]
    have count : tickCount (xs ++ ys) = g2 + g3 := by
      rw [← rest, tickCount_append, tickCount_load, tickCount_ticks, tickCount_ticks]
    have few : tickCount xs < 0xFFFFFFFF := by
      rw [tickCount_append] at count
      omega
    have a2 := refCtrlWrite_runUpdate wf { c with ctrl := p.run ||| p.update }
    rw [List.all_append, Bool.and_eq_true] at noCtrl
    rw [Policy.run_cons, Policy.op_ctrl, refPolicy_ctrlWrite, a2, refRun_noCtrl_pend noCtrl.1 rfl]
    have notDue : ¬ max 1 c.load.toNat ≤ tickCount xs := by
      rw [loaded]
      exact Nat.not_le.2 few
    rw [decide_eq_false notDue, Bool.or_false]

theorem refPolicy_meetsO5 (wf : p.wf = true) : (refPolicy (masksOf p)).MeetsO5 (masksOf p) := by
  intro c delta g1 g2 g3 before between after _ guarded window clear
  have loaded : ((refPolicy (masksOf p)).run (armToA2 g1) c).load = Config.guardValue := by
    rw [armToA2, Policy.run_append, refRun_ticks_load_eq]
    rfl
  rw [Policy.run_append, refRun_guardWindow_pend wf guarded (window.trans (List.append_assoc ..)) loaded] at clear
  rw [List.append_assoc, Policy.run_append, refRun_guardWindow_pend wf guarded window loaded]
  exact clear

theorem refPolicy_admissible (wf : p.wf = true) : (refPolicy (masksOf p)).Admissible (masksOf p) :=
  ⟨refPolicy_meetsO1 wf, refPolicy_meetsO2 wf, refPolicy_meetsO3 wf, refPolicy_meetsO4 wf, refPolicy_meetsO5 wf⟩

/-- The policy that the parameters name is REF, or a free one, which meets R118 by its type (log entry 10). -/
theorem latchPolicy_admissible (wf : p.wf = true) : (latchPolicy p).Admissible (masksOf p) := by
  obtain ref | free := latchPolicy_cases p
  · exact ref ▸ refPolicy_admissible wf
  · exact free

/-- Settles O26: REF fires on the delta-th tick after A4, and the policy named is admissible. -/
theorem refFiresOnExactlyTheNthTick : Obligations.RefFiresOnExactlyTheNthTick := fun _ wf =>
  ⟨(refPolicy_admissible wf).o1, (latchPolicy_admissible wf).o1⟩

/-- Settles O27: REF's STOP leaves nothing running or pending, and the policy named is admissible. -/
theorem refDisableObligations : Obligations.RefDisableObligations := fun _ wf =>
  ⟨(refPolicy_admissible wf).o2, (refPolicy_admissible wf).o3, (latchPolicy_admissible wf).o2,
    (latchPolicy_admissible wf).o3⟩

/-- Settles O28: REF's A2 forgets all but PEND and its guard outlasts the window; the policy named is admissible. -/
theorem refGuardObligations : Obligations.RefGuardObligations := by
  refine fun p wf => ⟨⟨(refPolicy_admissible wf).o4, (refPolicy_admissible wf).o5⟩,
    ⟨(latchPolicy_admissible wf).o4, (latchPolicy_admissible wf).o5⟩, fun ref c a b g2 g3 _ _ guarded => ?_,
    fun ref c delta g2 g3 clear guarded => ?_⟩
  · have arm {g2 g3 : Nat} (guarded : g2 + g3 < 0xFFFFFFFF) (delta : Word) (c : Countdown) :
        (refPolicy (masksOf p)).run (armOps (masksOf p) delta 0 g2 g3) c = _ := refRun_arm wf guarded delta c
    have unguarded : 0 + 0 < 0xFFFFFFFF := by decide
    rw [timerRun_ref ref, timerRun_ref ref, Policy.run_append, arm unguarded a c, arm guarded, arm unguarded b c]
  · rw [timerRun_ref ref, refRun_armToA4 wf guarded, clear]

end Sys2Proof.Machine
end

section
/-!
PROOFS. The event path's own steps and runs (R115, R122, R125, R130, R162): EVENT's and IRQH's writes one at a time,
ARM, DISABLE, the handler and BOOT run to their ends, and step CB's issue of operations and its waits.
-/
namespace Sys2Proof.Machine

variable {s t : State} {i : Instr} {r : Reg} {st : EventStep} {delta : Word} {k n : Nat} {rest : List Move} {p : Params}

/-! ## EVENT's writes (R115, R122) -/

/-- What EVENT returns after its last step (R115, R122). -/
def EventStep.result : EventStep → Result
  | .a4 => .ok
  | _ => .unit

theorem eventAfter_of_more (step : s.event.step = st) (more : st.after ≠ .idle) :
    s.eventAfter = s.setEventStep st.after := by
  subst step
  unfold State.eventAfter
  cases step : s.event.step <;> first | rfl | (rw [step] at more; exact absurd rfl more)

theorem eventAfter_of_last (step : s.event.step = st) (busy : st ≠ .idle) (last : st.after = .idle) :
    s.eventAfter = (s.setEventStep .idle).ret .event st.result := by
  subst step
  unfold State.eventAfter
  cases step : s.event.step <;> rw [step] at busy last <;> first | rfl | exact absurd rfl busy | cases last

/-- EVENT's return (R41, R125). -/
theorem ret_event_eq (s : State) (v : Result) :
    s.ret .event v =
      { s with
        hist := s.hist ++ [.ret .event v]
        irqh := { s.irqh with wait := if s.irqh.wait = some .event then none else s.irqh.wait } } := by
  unfold State.ret State.record
  congr

/-- A transaction of EVENT is a well-formed write of a register that EVENT owns (R53, R115, R122). -/
theorem eventInstr_owned (next : eventInstr s = some i) (reg : busReg i = some r) :
    regDir r = .write ∧ permitted r .event = true ∧ i.wf s.params = true := by
  unfold eventInstr at next
  cases step : s.event.step <;> rw [step] at next <;> cases next <;> cases reg <;>
    simp [regDir, permitted, Instr.wf, Params.ctrlValues]

theorem storeEffect_event (i : Instr) (s : State) : (storeEffect i s).event = s.event := by
  cases i <;> rfl

/-- EVENT's move on a mapped block: the write that its step names is recorded and done, and EVENT advances. -/
theorem takeMove_event_transacts (mapped : s.mapped = true) (next : eventInstr s = some i) (reg : busReg i = some r) :
    takeMove .event s =
      .next (storeEffect i
        { s with
          master := .event
          hist := s.hist ++ [.bus .event .write (regOffset s.params r) (storeData i)] }).eventAfter := by
  obtain ⟨dir, owner, wf⟩ := eventInstr_owned next reg
  have own : seqInstr .event s = some i := next
  rw [takeMove_event own, agentStep_write own reg dir owner mapped wf]
  rfl

/-- A step of EVENT that is not its last: the write and nothing else, then the next step. -/
theorem takeMove_event_writes (mapped : s.mapped = true) (step : s.event.step = st) (more : st.after ≠ .idle)
    (next : eventInstr s = some i) (reg : busReg i = some r) :
    takeMove .event s =
      .next
        { storeEffect i s with
          master := .event
          hist := s.hist ++ [.bus .event .write (regOffset s.params r) (storeData i)]
          event := { s.event with step := st.after } } := by
  rw [takeMove_event_transacts mapped next reg, eventAfter_of_more ((storeEffect_event i _).symm ▸ step) more]
  cases i <;> rfl

/-- The last step of EVENT: the write, then IDLE with the return, which ends IRQH's wait (R125). -/
theorem takeMove_event_returns (mapped : s.mapped = true) (step : s.event.step = st) (busy : st ≠ .idle)
    (last : st.after = .idle) (next : eventInstr s = some i) (reg : busReg i = some r) :
    takeMove .event s =
      .next
        { storeEffect i s with
          master := .event
          hist := s.hist ++ [.bus .event .write (regOffset s.params r) (storeData i), .ret .event st.result]
          event := { s.event with step := .idle }
          irqh := { s.irqh with wait := if s.irqh.wait = some .event then none else s.irqh.wait } } := by
  rw [takeMove_event_transacts mapped next reg, eventAfter_of_last ((storeEffect_event i _).symm ▸ step) busy last,
    ret_event_eq, List.append_cons _ _ [Event.ret .event st.result]]
  cases i <;> rfl

/-- The transaction of EVENT by its step. -/
theorem eventInstr_of_step (step : s.event.step = st) :
    eventInstr s = eventInstr { s with event := { s.event with step := st } } := by
  subst step
  rfl

section
variable (mapped : s.mapped = true)
include mapped

theorem takeMove_event_a1 (step : s.event.step = .a1) :
    takeMove .event s =
      .next
        { s with
          master := .event
          timer := loadWrite s.params 0xFFFFFFFF#32 s.timer
          hist := s.hist ++ [.bus .event .write s.params.loadOff 0xFFFFFFFF#32]
          event := { s.event with step := .a2 } } :=
  takeMove_event_writes mapped step (by decide) (i := .wrLoad _) (eventInstr_of_step step) rfl

theorem takeMove_event_a2 (step : s.event.step = .a2) :
    takeMove .event s =
      .next
        { s with
          master := .event
          timer :=
            ctrlWrite s.params (s.params.run ||| s.params.update)
              { s.timer with ctrl := s.params.run ||| s.params.update }
          hist := s.hist ++ [.bus .event .write s.params.ctrlOff (s.params.run ||| s.params.update)]
          event := { s.event with step := .a3 } } :=
  takeMove_event_writes mapped step (by decide) (i := .wrCtrl _) (eventInstr_of_step step) rfl

theorem takeMove_event_a3 (step : s.event.step = .a3) :
    takeMove .event s =
      .next
        { s with
          master := .event
          timer := loadWrite s.params s.event.delta s.timer
          hist := s.hist ++ [.bus .event .write s.params.loadOff s.event.delta]
          event := { s.event with step := .a4 } } :=
  takeMove_event_writes mapped step (by decide) (i := .wrLoad _) (eventInstr_of_step step) rfl

theorem takeMove_event_a4 (step : s.event.step = .a4) :
    takeMove .event s =
      .next
        { s with
          master := .event
          timer := ctrlWrite s.params s.params.run { s.timer with ctrl := s.params.run }
          hist := s.hist ++ [.bus .event .write s.params.ctrlOff s.params.run, .ret .event .ok]
          event := { s.event with step := .idle }
          irqh := { s.irqh with wait := if s.irqh.wait = some .event then none else s.irqh.wait } } :=
  takeMove_event_returns mapped step (by decide) rfl (i := .wrCtrl _) (eventInstr_of_step step) rfl

theorem takeMove_event_d1 (step : s.event.step = .d1) :
    takeMove .event s =
      .next
        { s with
          master := .event
          timer := ctrlWrite s.params s.params.update { s.timer with ctrl := s.params.update }
          hist := s.hist ++ [.bus .event .write s.params.ctrlOff s.params.update]
          event := { s.event with step := .d2 } } :=
  takeMove_event_writes mapped step (by decide) (i := .wrCtrl _) (eventInstr_of_step step) rfl

theorem takeMove_event_d2 (step : s.event.step = .d2) :
    takeMove .event s =
      .next
        { s with
          master := .event
          timer := ctrlWrite s.params s.params.stop { s.timer with ctrl := s.params.stop }
          hist := s.hist ++ [.bus .event .write s.params.ctrlOff s.params.stop, .ret .event .unit]
          event := { s.event with step := .idle }
          irqh := { s.irqh with wait := if s.irqh.wait = some .event then none else s.irqh.wait } } :=
  takeMove_event_returns mapped step (by decide) rfl (i := .wrCtrl _) (eventInstr_of_step step) rfl

end

/-! ## ARM and DISABLE run to their ends -/

theorem takeMove_host_arm (mapped : s.mapped = true) (nonzero : delta ≠ 0#32) (free : s.eventBusy = false) :
    takeMove (.host (encode p (.arm delta))) s = .next (State.startEvent { s with issuer := .host } .a1 delta) :=
  (takeMove_host (decodeCmd_encode p rfl)).trans (exec_arm_starts mapped nonzero free)

theorem takeMove_host_disable (mapped : s.mapped = true) (free : s.eventBusy = false) :
    takeMove (.host (encode p .disable)) s = .next (State.startEvent { s with issuer := .host } .d1 s.event.delta) :=
  (takeMove_host (decodeCmd_encode p rfl)).trans (exec_disable_starts mapped free)

/-- The records of ARM's four writes and its return (R115). -/
def armRecords (p : Params) (delta : Word) : List Event :=
  [.bus .event .write p.loadOff 0xFFFFFFFF#32, .bus .event .write p.ctrlOff (p.run ||| p.update),
    .bus .event .write p.loadOff delta, .bus .event .write p.ctrlOff p.run, .ret .event .ok]

/-- An operation of EVENT issued by HOST has run to its end: EVENT idle again, the countdown and the history as given,
the moves `rest` remain. -/
def State.eventRan (s : State) (delta : Word) (c : Countdown) (h : List Event) (rest : List Move) : State :=
  { s with
    issuer := .host, master := .event, event := { step := .idle, delta := delta, issuer := .host }
    timer := c, hist := h
    irqh := { s.irqh with wait := if s.irqh.wait = some .event then none else s.irqh.wait }, script := rest }

/-- ARM issued by HOST and run without another agent stepping (R115). -/
theorem runScript_arm (wf : s.params.wf = true) (mapped : s.mapped = true) (nonzero : delta ≠ 0#32)
    (free : s.eventBusy = false)
    (script : s.script = .host (encode p (.arm delta)) :: .event :: .event :: .event :: .event :: rest) :
    s.runScript =
      (s.eventRan delta (timerRun s.params (armOps (masksOf s.params) delta 0 0 0) s.timer)
        (s.hist ++ armRecords s.params delta) rest).runScript := by
  refine Eq.trans (runScript_move wf script (takeMove_host_arm mapped nonzero free) rfl) ?_
  refine Eq.trans (runScript_move wf rfl (takeMove_event_a1 mapped rfl) rfl) ?_
  refine Eq.trans (runScript_move wf rfl (takeMove_event_a2 mapped rfl) rfl) ?_
  refine Eq.trans (runScript_move wf rfl (takeMove_event_a3 mapped rfl) rfl) ?_
  refine Eq.trans (runScript_move wf rfl (takeMove_event_a4 mapped rfl) rfl) ?_
  simp only [List.append_assoc]
  rfl

/-- Settles O20: ARM's steps one by one, and its run. -/
theorem armWritesExactlyFour : Obligations.ArmWritesExactlyFour := by
  refine ⟨fun s mapped => ⟨takeMove_event_a1 mapped, takeMove_event_a2 mapped, takeMove_event_a3 mapped,
    takeMove_event_a4 mapped⟩, ?_⟩
  intro s delta ms wf mapped nonzero free script
  have run := runScript_arm (s := { s with script := ms }) wf mapped nonzero free script
  exact ⟨_, run.trans (runScript_ended rfl), rfl, rfl, rfl⟩

/-- When its count is used up REF's countdown has stopped at 0 (R112, R113). -/
theorem refRun_ticks_fired {m : Masks} {load ctrl cur : Word} {pend : Bool} (positive : 0 < cur.toNat)
    (due : cur.toNat ≤ n) :
    (refPolicy m).run (ticks n) { load, ctrl, cur, en := true, pend } =
      { load, ctrl, cur := 0#32, en := false, pend := true } := by
  induction n generalizing cur with
  | zero => omega
  | succ n ih =>
    rw [refRun_ticks_succ]
    by_cases last : cur.toNat ≤ 1
    · rw [refTick_fires rfl last, refRun_ticks_stopped rfl]
    · have more : 1 < cur.toNat := Nat.lt_of_not_le last
      have less := toNat_sub_one more
      have positive' : 0 < (cur - 1#32).toNat := by omega
      have due' : (cur - 1#32).toNat ≤ n := by omega
      rw [refTick_counts rfl more, ih positive' due']

/-- Settles O22: after ARM's run the countdown is at delta, and the ticks use it up or do not. -/
theorem armFiresAfterDeltaTicks : Obligations.ArmFiresAfterDeltaTicks := by
  intro s delta n ms wf ref mapped nonzero free clear script
  have positive : 0 < delta.toNat := by bv_omega
  have armed : timerRun s.params (armOps (masksOf s.params) delta 0 0 0) s.timer =
      { load := delta, ctrl := s.params.run, cur := delta, en := true, pend := false } := by
    rw [timerRun_ref ref, ← clear]
    exact refRun_arm wf (by decide) delta s.timer
  have run := runScript_arm (s := { s with script := ms }) wf mapped nonzero free script
  have ticked := run.trans (runScript_ticks (ms := []) wf (List.append_nil _).symm)
  refine ⟨_, ticked.trans (runScript_ended rfl), ?_⟩
  simp only [State.afterTicks, State.eventRan, State.irqLine, armed, timerRun_ref ref]
  by_cases due : delta.toNat ≤ n
  · rw [refRun_ticks_fired positive due]
    simp [due, Nat.sub_eq_zero_of_le due]
  · have below := Nat.lt_of_not_le due
    rw [refRun_ticks_below below]
    have left : (delta - BitVec.ofNat 32 n).toNat = delta.toNat - n := by bv_omega
    simp [due, below, left]

/-- The records of DISABLE's two writes, of the ticks between them, and of its return (R122). -/
def disableRecords (p : Params) (g : Nat) : List Event :=
  [Event.bus .event .write p.ctrlOff p.update] ++ List.replicate g Event.tick ++
    [Event.bus .event .write p.ctrlOff p.stop, Event.ret .event .unit]

/-- DISABLE issued by HOST and run with ticks between its writes (R122). -/
theorem runScript_disable {g : Nat} (wf : s.params.wf = true) (mapped : s.mapped = true) (free : s.eventBusy = false)
    (script : s.script =
      .host (encode p .disable) :: .event :: (List.replicate g Move.tick ++ Move.event :: rest)) :
    s.runScript =
      State.runScript
        { s.eventRan s.event.delta (timerRun s.params (disableOps (masksOf s.params) g) s.timer)
            (s.hist ++ disableRecords s.params g) rest with
          cnt := later s.cnt g } := by
  refine Eq.trans (runScript_move wf script (takeMove_host_disable mapped free) rfl) ?_
  refine Eq.trans (runScript_move wf rfl (takeMove_event_d1 mapped rfl) rfl) ?_
  refine Eq.trans (runScript_ticks wf rfl) ?_
  refine Eq.trans (runScript_move wf rfl (takeMove_event_d2 mapped rfl) rfl) ?_
  simp only [State.afterTicks, disableOps, timerRun_append, disableRecords, List.append_assoc]
  rfl

/-- Settles O24: DISABLE's two steps, and its run with the ticks between them. -/
theorem disableHaltsAndClears : Obligations.DisableHaltsAndClears := by
  refine ⟨fun s mapped => ⟨takeMove_event_d1 mapped, takeMove_event_d2 mapped⟩, ?_⟩
  intro s g ms wf ref mapped free script
  have run := runScript_disable (s := { s with script := ms }) (rest := []) wf mapped free (by simpa using script)
  have timer := (timerRun_ref ref _ _).trans (refRun_disable wf g s.timer)
  exact ⟨_, run.trans (runScript_ended rfl), rfl, timer, by simp [State.eventRan, disableRecords]⟩

/-! ## IRQH's own steps and the handler's run (R125, R130) -/

section
variable (mapped : s.mapped = true)
include mapped

theorem takeMove_irqh_h1 (step : s.irqh.step = .h1) :
    takeMove .irqh s =
      .next
        { s with
          master := .irqh
          timer := ctrlWrite s.params s.params.update { s.timer with ctrl := s.params.update }
          hist := s.hist ++ [.bus .irqh .write s.params.ctrlOff s.params.update]
          irqh := { s.irqh with step := .h2 } } := by
  have own : seqInstr .irqh s = some (.wrCtrl s.params.update) := by simp [seqInstr, irqhInstr, step]
  have wf : (Instr.wrCtrl s.params.update).wf s.params = true := wrCtrl_wf_iff.2 (by simp [Params.ctrlValues])
  rw [takeMove_irqh own, agentStep_write own (r := .ctrl) rfl rfl rfl mapped wf]
  simp only [seqAfter, State.irqhAfter, storeEffect, step]
  rfl

theorem takeMove_irqh_h2 (step : s.irqh.step = .h2) :
    takeMove .irqh s =
      .next
        { s with
          master := .irqh
          timer := ctrlWrite s.params s.params.stop { s.timer with ctrl := s.params.stop }
          hist := s.hist ++ [.bus .irqh .write s.params.ctrlOff s.params.stop]
          irqh := { s.irqh with step := .cb } } := by
  have own : seqInstr .irqh s = some (.wrCtrl s.params.stop) := by simp [seqInstr, irqhInstr, step]
  have wf : (Instr.wrCtrl s.params.stop).wf s.params = true := wrCtrl_wf_iff.2 (by simp [Params.ctrlValues])
  rw [takeMove_irqh own, agentStep_write own (r := .ctrl) rfl rfl rfl mapped wf]
  simp only [seqAfter, State.irqhAfter, storeEffect, step]
  rfl

end

theorem takeMove_irqh_ret (step : s.irqh.step = .ret) : takeMove .irqh s = .next s.returnFromInterrupt := by
  simp [takeMove, enabled, runMove, irqhStep, step]

theorem takeMove_answer {ops : List DWord} (cb : s.irqh.step = .cb) (first : s.irqh.answered = false) :
    takeMove (.answer ops) s = .next (s.callback ops) := by
  simp [takeMove, enabled, runMove, cb, first]

/-- With the answer used up IRQH goes to RET (R125). -/
theorem takeMove_irqh_callbackDone (cb : s.irqh.step = .cb) (answered : s.irqh.answered = true)
    (free : s.irqh.wait = none) (ops : s.irqh.pendingOps = []) : takeMove .irqh s = .next s.callbackDone := by
  rw [takeMove_irqh_callback cb answered free, callbackStep, ops]

theorem takeMove_irq_takes (entry : s.irqEnabled = true) (notCb : s.irqh.step ≠ .cb) (mapped : s.mapped = true)
    (handler : s.handler.isSome = true) :
    takeMove .irq s = .next (State.takeInterrupt { s with issuer := .irqh }) :=
  (takeMove_irq entry).trans (exec_irqEntry_takes rfl notCb entry mapped handler)

/-- The handler's run with an empty answer, under any policy: UPDATE, STOP, the callback, HANDLED (R130). -/
theorem runScript_handler (wf : s.params.wf = true) (mapped : s.mapped = true) (entry : s.irqEnabled = true)
    (notCb : s.irqh.step ≠ .cb) (handler : s.handler.isSome = true)
    (script : s.script = [.irq, .irqh, .irqh, .answer [], .irqh, .irqh]) :
    s.runScript =
      .next
        { s with
          issuer := .irqh
          master := .irqh
          timer := timerRun s.params (disableOps (masksOf s.params) 0) s.timer
          hist := s.hist ++
            [.bus .irqh .write s.params.ctrlOff s.params.update, .bus .irqh .write s.params.ctrlOff s.params.stop,
              .callback, .ret .irqh .handled]
          irqh := { step := .idle, active := false, pendingOps := [], answered := false, wait := none }
          script := [] } := by
  refine Eq.trans (runScript_move wf script (takeMove_irq_takes entry notCb mapped handler) rfl) ?_
  refine Eq.trans (runScript_move wf rfl (takeMove_irqh_h1 mapped rfl) rfl) ?_
  refine Eq.trans (runScript_move wf rfl (takeMove_irqh_h2 mapped rfl) rfl) ?_
  refine Eq.trans (runScript_move wf rfl (takeMove_answer rfl rfl) rfl) ?_
  refine Eq.trans (runScript_move wf rfl (takeMove_irqh_callbackDone rfl rfl rfl rfl) rfl) ?_
  refine Eq.trans (runScript_move wf rfl (takeMove_irqh_ret rfl) rfl) ?_
  rw [runScript_ended rfl]
  simp only [State.returnFromInterrupt, State.callbackDone, State.callback, State.takeInterrupt, State.ret,
    State.record, List.append_assoc]
  rfl

/-- Settles O33: IRQH's steps one by one, and the handler's run. -/
theorem handlerDisablesAndReturns : Obligations.HandlerDisablesAndReturns := by
  refine ⟨fun s => ⟨takeMove_irqh_h1, takeMove_irqh_h2, takeMove_irqh_ret⟩, ?_⟩
  intro s ms wf ref mapped entry idle handler script
  have run := runScript_handler (s := { s with script := ms }) wf mapped entry (by simp [idle]) handler script
  have timer := (timerRun_ref ref _ _).trans (refRun_disable wf 0 s.timer)
  exact ⟨_, run, rfl, timer, rfl, rfl, rfl, rfl, rfl, rfl⟩

/-! ## BOOT's run (R162) -/

theorem takeMove_boot_starts {h : Nat} (unmapped : s.mapped = false) :
    takeMove (.boot (.ok h)) s = .next { s with mapped := true, boot := .disable h } := by
  show bootStart (.ok h) s = _
  simp [bootStart, unmapped]

theorem takeMove_bootStep (able : bootEnabled s = true) : takeMove .bootStep s = bootAdvance s := if_pos able

/-- Step 3 issues DISABLE on the block that BOOT has just mapped (R162). -/
theorem takeMove_boot_disable {h : Nat} (at3 : s.boot = .disable h) (mapped : s.mapped = true)
    (free : s.eventBusy = false) :
    takeMove .bootStep s =
      .next (State.startEvent { s with boot := .registerCe h, issuer := .host } .d1 s.event.delta) := by
  rw [takeMove_bootStep (by simp [bootEnabled, at3])]
  simp only [bootAdvance, at3]
  exact exec_disable_starts mapped free

/-- Step 4 waits for DISABLE's return (R162). -/
theorem takeMove_boot_registerCe {h : Nat} (at4 : s.boot = .registerCe h) (returned : s.event.step = .idle) :
    takeMove .bootStep s = .next { s with regCe := true, handler := some h, boot := .registerIrq } := by
  rw [takeMove_bootStep (by simp [bootEnabled, at4, returned])]
  simp only [bootAdvance, at4]

theorem takeMove_boot_registerIrq (at5 : s.boot = .registerIrq) :
    takeMove .bootStep s = .next { s with irqReq := true, boot := .registerCs } := by
  rw [takeMove_bootStep (by simp [bootEnabled, at5])]
  simp only [bootAdvance, at5]

theorem takeMove_boot_registerCs (at6 : s.boot = .registerCs) :
    takeMove .bootStep s = .next { s with regCs := true, boot := .expose } := by
  rw [takeMove_bootStep (by simp [bootEnabled, at6])]
  simp only [bootAdvance, at6]

theorem takeMove_boot_expose (at7 : s.boot = .expose) : takeMove .bootStep s = .next { s with boot := .idle } := by
  rw [takeMove_bootStep (by simp [bootEnabled, at7])]
  simp only [bootAdvance, at7]

/-- BOOT's run on an unmapped block, under any policy: DISABLE, then the registrations (R162). -/
theorem runScript_boot {h : Nat} (wf : s.params.wf = true) (unmapped : s.mapped = false) (free : s.eventBusy = false)
    (script : s.script =
      [.boot (.ok h), .bootStep, .event, .event, .bootStep, .bootStep, .bootStep, .bootStep]) :
    s.runScript =
      .next
        { s.eventRan s.event.delta (timerRun s.params (disableOps (masksOf s.params) 0) s.timer)
            (s.hist ++ disableRecords s.params 0) [] with
          mapped := true, handler := some h, regCe := true, irqReq := true, regCs := true, boot := .idle } := by
  refine Eq.trans (runScript_move wf script (takeMove_boot_starts unmapped) rfl) ?_
  refine Eq.trans (runScript_move wf rfl (takeMove_boot_disable rfl rfl free) rfl) ?_
  refine Eq.trans (runScript_move wf rfl (takeMove_event_d1 rfl rfl) rfl) ?_
  refine Eq.trans (runScript_move wf rfl (takeMove_event_d2 rfl rfl) rfl) ?_
  refine Eq.trans (runScript_move wf rfl (takeMove_boot_registerCe rfl rfl) rfl) ?_
  refine Eq.trans (runScript_move wf rfl (takeMove_boot_registerIrq rfl) rfl) ?_
  refine Eq.trans (runScript_move wf rfl (takeMove_boot_registerCs rfl) rfl) ?_
  refine Eq.trans (runScript_move wf rfl (takeMove_boot_expose rfl) rfl) ?_
  rw [runScript_ended rfl]
  simp only [disableRecords, List.append_assoc]
  rfl

/-- Settles O52: an unmapped block has a free event path, and BOOT runs to its end. -/
theorem bootStopsAndRegisters : Obligations.BootStopsAndRegisters := by
  intro s h ms wf ref unmapped inv script
  obtain ⟨idle, _⟩ := inv.unmappedIdle unmapped
  obtain ⟨_, event, irqh, _⟩ := agentsIdle_iff.1 idle
  have free : s.eventBusy = false := eventBusy_eq_false_iff.2 ⟨event, by simp [irqh], by simp [irqh]⟩
  have run := runScript_boot (s := { s with script := ms }) wf unmapped free script
  have timer := (timerRun_ref ref _ _).trans (refRun_disable wf 0 s.timer)
  exact ⟨_, run, rfl, rfl, rfl, rfl, rfl, rfl, rfl, timer, rfl, rfl, rfl, rfl⟩

/-! ## Step CB (R125, R126) -/

/-- The next operation of an answer, written as its command word, is issued by IRQH (R126). -/
theorem takeMove_irqh_issues {ws : List DWord} (cb : s.irqh.step = .cb) (answered : s.irqh.answered = true)
    (free : s.irqh.wait = none) (cmd : i.format = .cmd) (ops : s.irqh.pendingOps = encode s.params i :: ws) :
    takeMove .irqh s = exec i (s.takeOp ws) :=
  (takeMove_irqh_callback cb answered free).trans (callbackStep_decoded ops (decodeCmd_encode s.params cmd))

/-- On an unmapped block an agent's transaction is refused and its sequence does not advance (R81-R87). -/
theorem agentStep_unmapped {a : Agent} (unmapped : s.mapped = false) (taken : agentStep a s = .next t) :
    t.event = s.event ∧ t.irqh = s.irqh ∧ t.readers = s.readers := by
  obtain ⟨i, u, _, eff, eq⟩ := agentStep_cases taken
  have refused : ¬ busAdmitted i { s with master := a } = true := fun admitted => by
    obtain ⟨_, _, _, mapped, _⟩ := busAdmitted_iff.1 admitted
    exact not_unmapped mapped unmapped
  rw [if_neg refused] at eq
  subst eq
  exact ⟨eff.event_eq, eff.irqh_eq, eff.readers_eq⟩

/-- EVENT's move, taken, is its bus step: it is under way. -/
theorem takeMove_event_busy_step (taken : takeMove .event s = .next t) :
    s.event.step ≠ .idle ∧ agentStep .event s = .next t := by
  cases next : seqInstr .event s with
  | none => simp [takeMove, enabled, next, disabledMove] at taken
  | some i =>
    refine ⟨fun idle => ?_, (takeMove_event next).symm.trans taken⟩
    simp [seqInstr, eventInstr, idle] at next

/-- EVENT's return, and nothing else of its own, ends IRQH's wait for it (R125). -/
theorem takeMove_event_ends_wait (waits : s.irqh.wait = some .event) (taken : takeMove .event s = .next t) :
    t.event.step = .idle ↔ t.irqh.wait = none := by
  obtain ⟨busy, step⟩ := takeMove_event_busy_step taken
  cases mapped : s.mapped with
  | false =>
    obtain ⟨event, irqh, _⟩ := agentStep_unmapped mapped step
    simp [event, irqh, busy, waits]
  | true =>
    obtain ⟨_, goesOn, returns⟩ := takeMove_event_own mapped busy taken
    by_cases idle : t.event.step = .idle
    · obtain ⟨ended, same | cleared, _⟩ := returns idle
      · exact absurd (same ▸ waits) ended
      · simp [idle, cleared]
    · simp [idle, goesOn idle, waits]

/-- A READER whose sequence names a transaction has a read before it. -/
theorem reads_of_seqInstr (next : seqInstr (.reader k) s = some i) :
    ∃ r g v, s.readers[k]? = some r ∧ r.step.reads s.cnt = some (g, v) := by
  simp only [seqInstr, Option.bind_eq_some_iff, Reader.nextInstr] at next
  obtain ⟨r, reader, next⟩ := next
  refine ⟨r, ?_⟩
  cases step : r.step <;> rw [step] at next <;> cases next <;> exact ⟨_, _, reader, rfl⟩

theorem seqAfter_reader_wait {q : Reader} (reader : s.readers[k]? = some q) (waits : s.irqh.wait = some (.reader k)) :
    (seqAfter (.reader k) s).irqh.wait = none ↔ (q.advance s.busData).step = .done := by
  show (s.readerAfter k).irqh.wait = none ↔ _
  rw [readerAfter_eq reader]
  split
  · next done => simp [done, waits]
  · next more => simp [more, waits]

/-- A READER's return, and nothing else of its own, ends IRQH's wait for it (R125). -/
theorem takeMove_reader_ends_wait (waits : s.irqh.wait = some (.reader k))
    (taken : takeMove (.reader k) s = .next t) :
    (∃ r, t.readers[k]? = some r ∧ r.step = .done) ↔ t.irqh.wait = none := by
  obtain ⟨q, reader, _, rfl⟩ | step := takeMove_reader_cases taken
  · have issued : k < s.readers.length := (List.getElem?_eq_some_iff.1 reader).1
    simp [State.setReader, issued, waits]
  · obtain ⟨i, _, next, _, _⟩ := agentStep_cases step
    obtain ⟨q, g, v, reader, reads⟩ := reads_of_seqInstr next
    cases mapped : s.mapped with
    | false =>
      obtain ⟨_, irqh, readers⟩ := agentStep_unmapped mapped step
      have notDone : q.step ≠ .done := fun done => by
        rw [done] at reads
        cases reads
      simp [irqh, readers, reader, waits, notDone]
    | true =>
      rw [takeMove_reader_reads mapped reader reads] at taken
      cases taken
      have own : (seqAfter (.reader k) (s.readBy k g v)).readers[k]? = some (q.advance v) := seqAfter_reader_own reader
      rw [seqAfter_reader_wait (s := s.readBy k g v) reader waits, own]
      simp [State.readBy]

/-- Settles O47, clause by clause: the answer, the wait, the issue of each operation, and the returns. -/
theorem callbackIssuesAndWaits : Obligations.CallbackIssuesAndWaits := by
  intro s ws cb
  refine ⟨takeMove_answer cb, fun answered waits => ?_, fun answered free => ⟨fun ops => ?_, fun ops mapped => ?_,
    fun d ops mapped nonzero idle => ?_, fun ops mapped idle => ?_⟩, fun t => takeMove_event_ends_wait,
    fun k t => takeMove_reader_ends_wait⟩
  · simp [enabled, cb, answered, Option.isSome_iff_ne_none, waits]
  · exact ⟨_, takeMove_irqh_callbackDone cb answered free ops, rfl, rfl⟩
  · obtain ⟨mappedStarts, _⟩ := read64CreatesReader (s.takeOp ws)
    obtain ⟨r, _, issued⟩ := mappedStarts mapped
    exact ⟨_, (takeMove_irqh_issues cb answered free rfl ops).trans issued, by simp, rfl, rfl⟩
  · have event : (s.takeOp ws).eventBusy = false := eventBusy_eq_false_iff.2 ⟨idle, by simp [cb], by simp [cb]⟩
    exact ⟨_, (takeMove_irqh_issues cb answered free rfl ops).trans
      (exec_arm_starts mapped nonzero event), rfl, rfl, rfl⟩
  · have event : (s.takeOp ws).eventBusy = false := eventBusy_eq_false_iff.2 ⟨idle, by simp [cb], by simp [cb]⟩
    exact ⟨_, (takeMove_irqh_issues cb answered free rfl ops).trans
      (exec_disable_starts mapped event), rfl, rfl, rfl, rfl⟩

end Sys2Proof.Machine
end

section
/-!
PROOFS. Termination under fairness (R92, R179): a sequence under way is brought to its end by the fairness to its own
agent, and the handler by its phases H1, H2, CB and RET, of which CB waits for the operations it issues.
-/
namespace Sys2Proof.Machine

variable {states : Nat → State} {moves : Nat → Move} {s t : State} {m : Move} {a : Agent} {n k : Nat} {ws : List DWord}

/-! ## Executions -/

theorem Execution.inv (e : Execution states moves) (start : (states 0).Inv) (n : Nat) : (states n).Inv := by
  induction n with
  | zero => exact start
  | succ n ih =>
    obtain ⟨_, ⟨_, _, rfl⟩, taken⟩ := e.taken n
    exact (takeMove_effect taken).inv (ih.of_control rfl ih.refusedReason)

theorem takeMove_enabled (taken : takeMove m s = .next t) : enabled m s = true := by
  refine Decidable.byContradiction fun no => ?_
  simp only [takeMove, if_neg no, disabledMove] at taken
  split at taken <;> cases taken

/-- What fairness to the agent `a` brings about: `P` holds up to a system reset or up to a step that ends in `Q`, when
each step of `a` lowers the rank or ends in `Q`, and each other step keeps the rank or ends in `Q`. -/
theorem Execution.leads (e : Execution states moves) (f : WeaklyFair states moves) (start : (states 0).Inv)
    {P : State → Prop} {rank : State → Nat} {Q : List Event → State → Prop}
    (blind : ∀ s script draws, P { s with script := script, draws := draws } = P s ∧
      rank { s with script := script, draws := draws } = rank s)
    (able : ∀ s : State, s.Inv → P s → agentEnabled a s)
    (own : ∀ (s t : State) (m : Move), s.Inv → P s → stepOf m = some a → takeMove m s = .next t →
      (P t ∧ rank t < rank s) ∨ Q s.hist t)
    (others : ∀ (s t : State) (m : Move), s.Inv → P s → stepOf m ≠ some a → m ≠ .sysreset → takeMove m s = .next t →
      (P t ∧ rank t = rank s) ∨ Q s.hist t)
    (now : P (states n)) :
    ∃ m, n ≤ m ∧ (∀ j, n ≤ j → j ≤ m → P (states j)) ∧
      (moves m = .sysreset ∨ Q (states m).hist (states (m + 1))) := by
  refine f.until (rank := rank) (fun j => able _ (e.inv start j)) (fun j holds => ?_) now
  obtain ⟨_, ⟨script, draws, rfl⟩, taken⟩ := e.taken j
  obtain ⟨sameP, sameRank⟩ := blind (states j) script draws
  have inv : State.Inv { states j with script := script, draws := draws } :=
    (e.inv start j).of_control rfl (e.inv start j).refusedReason
  rw [← sameRank]
  by_cases reset : moves j = .sysreset
  · exact .inl (.inl reset)
  · by_cases mine : stepOf (moves j) = some a
    · obtain ⟨keeps, lower⟩ | ends := own _ _ _ inv (sameP ▸ holds) mine taken
      · exact .inr ⟨keeps, .inl lower⟩
      · exact .inl (.inr ends)
    · obtain ⟨keeps, same⟩ | ends := others _ _ _ inv (sameP ▸ holds) mine reset taken
      · exact .inr ⟨keeps, .inr ⟨mine, same⟩⟩
      · exact .inl (.inr ends)

/-- An operation completes when something holds up to its return by which it is under way. -/
theorem completes_of_stronger {P underWay : State → Prop} {result : Result → Prop} (busy : ∀ s, P s → underWay s)
    (phase : ∃ m, n ≤ m ∧ (∀ j, n ≤ j → j ≤ m → P (states j)) ∧
      (moves m = .sysreset ∨ (¬ underWay (states (m + 1)) ∧
        ∃ es r, result r ∧ (states (m + 1)).hist = (states m).hist ++ es ++ [.ret a r]))) :
    Completes states moves n underWay a result := by
  obtain ⟨m, after, holds, ends⟩ := phase
  exact ⟨m, after, fun j low high => busy _ (holds j low high), ends⟩

/-! ## READ64 (R97) -/

theorem read64UnderWay_iff : s.read64UnderWay k ↔ ∃ r, s.readers[k]? = some r ∧ r.step.left ≠ 0 := by
  refine exists_congr fun r => and_congr_right fun _ => ?_
  cases r.step <;> simp [ReaderStep.left]

theorem inFlight_iff_left {st : ReaderStep} : st.inFlight = true ↔ st.left ≠ 0 := by
  cases st <;> simp [ReaderStep.inFlight, ReaderStep.left]

/-- How many bus steps READER(k) may still have before it. -/
def State.readerLeft (k : Nat) (s : State) : Nat := (s.readers[k]?.map fun r => r.step.left).getD 0

theorem readerLeft_eq {r : Reader} (reader : s.readers[k]? = some r) : s.readerLeft k = r.step.left := by
  simp [State.readerLeft, reader]

theorem agentEnabled_reader {r : Reader} (reader : s.readers[k]? = some r) (busy : r.step.left ≠ 0) :
    agentEnabled (.reader k) s := by
  refine ⟨.reader k, rfl, ?_⟩
  simp only [enabled, seqInstr, State.reader?, reader, Option.bind_some, Reader.nextInstr]
  cases step : r.step <;> rw [step] at busy <;> first | rfl | exact absurd rfl busy

/-- A step that is not READER(k)'s, and no system reset, leaves READER(k) as it is. -/
theorem reader_kept {r : Reader} (reader : s.readers[k]? = some r) (other : stepOf m ≠ some (.reader k))
    (noReset : m ≠ .sysreset) (taken : takeMove m s = .next t) : t.readers[k]? = s.readers[k]? :=
  takeMove_reader_kept taken (List.getElem?_eq_some_iff.1 reader).1 (fun same => other (same ▸ rfl)) noReset

theorem read64_completes (e : Execution states moves) (f : WeaklyFair states moves) (start : (states 0).Inv)
    (now : (states n).read64UnderWay k) :
    Completes states moves n (State.read64UnderWay k) (.reader k) (fun r => ∃ v, r = .value v) := by
  refine e.leads f start (a := .reader k) (P := State.read64UnderWay k) (rank := State.readerLeft k)
    (Q := fun h t => ¬ t.read64UnderWay k ∧ ∃ es r, (∃ v, r = .value v) ∧ t.hist = h ++ es ++ [.ret (.reader k) r])
    (fun _ _ _ => ⟨rfl, rfl⟩) (fun s _ busy => ?_) (fun s t m inv busy mine taken => ?_)
    (fun s t m _ busy other noReset taken => ?_) now
  · obtain ⟨r, reader, left⟩ := read64UnderWay_iff.1 busy
    exact agentEnabled_reader reader left
  · obtain ⟨r, reader, left⟩ := read64UnderWay_iff.1 busy
    obtain rfl := stepOf_reader mine
    have mapped := inv.mapped_of_reader reader (by rintro idle; simp [idle, ReaderStep.left] at left)
    obtain ⟨r', reader', lower, _, returns⟩ := takeMove_reader_own mapped reader left taken
    by_cases done : r'.step.left = 0
    · obtain ⟨_, _, es, v, hist⟩ := returns done
      refine .inr ⟨fun more => ?_, es, _, ⟨v, rfl⟩, hist⟩
      obtain ⟨q, at_k, left'⟩ := read64UnderWay_iff.1 more
      cases reader'.symm.trans at_k
      exact left' done
    · exact .inl ⟨read64UnderWay_iff.2 ⟨r', reader', done⟩, by rwa [readerLeft_eq reader, readerLeft_eq reader']⟩
  · obtain ⟨r, reader, _⟩ := read64UnderWay_iff.1 busy
    have kept := reader_kept reader other noReset taken
    exact .inl ⟨by unfold State.read64UnderWay; rwa [kept], by simp only [State.readerLeft, kept]⟩

/-! ## ARM and DISABLE (R115, R122) -/

/-- EVENT runs ARM, or DISABLE. -/
def State.eventRuns (arming : Bool) (s : State) : Prop := s.event.step ≠ .idle ∧ s.event.step.arming = arming

theorem armUnderWay_eq : State.armUnderWay = State.eventRuns true := by
  funext s
  unfold State.armUnderWay State.eventRuns
  cases s.event.step <;> simp [EventStep.arming]

theorem disableUnderWay_eq : State.disableUnderWay = State.eventRuns false := by
  funext s
  unfold State.disableUnderWay State.eventRuns
  cases s.event.step <;> simp [EventStep.arming]

/-- How many bus steps EVENT has before it. -/
def EventStep.left : EventStep → Nat
  | .a1 => 4
  | .a2 => 3
  | .a3 => 2
  | .a4 => 1
  | .d1 => 2
  | .d2 => 1
  | .idle => 0

theorem EventStep.left_after {st : EventStep} (busy : st ≠ .idle) : st.after.left < st.left := by
  cases st <;> simp [EventStep.after, EventStep.left] at busy ⊢

theorem EventStep.arming_after {st : EventStep} (more : st.after ≠ .idle) : st.after.arming = st.arming := by
  cases st <;> simp [EventStep.after, EventStep.arming] at more ⊢

/-- EVENT's last step returns OK for ARM and UNIT for DISABLE. -/
theorem EventStep.result_of_last {st : EventStep} (busy : st ≠ .idle) (last : st.after = .idle) :
    (if st = .a4 then Result.ok else .unit) = if st.arming then .ok else .unit := by
  cases st <;> simp [EventStep.after, EventStep.arming] at busy last ⊢

theorem agentEnabled_event (busy : s.event.step ≠ .idle) : agentEnabled .event s := by
  refine ⟨.event, rfl, ?_⟩
  simp only [enabled, seqInstr, eventInstr]
  cases step : s.event.step <;> first | rfl | exact absurd step busy

theorem State.Inv.mapped_of_event (inv : s.Inv) (busy : s.event.step ≠ .idle) : s.mapped = true :=
  inv.mapped_of_busy fun idle => busy (agentsIdle_iff.1 idle).2.1

/-- A step that is not EVENT's, and no system reset, leaves a busy EVENT as it is. -/
theorem event_kept (busy : s.event.step ≠ .idle) (other : stepOf m ≠ some .event) (noReset : m ≠ .sysreset)
    (taken : takeMove m s = .next t) : t.event = s.event :=
  takeMove_event_busy taken busy (fun same => other (same ▸ rfl)) noReset

theorem event_completes (e : Execution states moves) (f : WeaklyFair states moves) (start : (states 0).Inv)
    {arming : Bool} (now : (states n).eventRuns arming) :
    Completes states moves n (State.eventRuns arming) .event (fun r => r = if arming then .ok else .unit) := by
  refine e.leads f start (a := .event) (P := State.eventRuns arming) (rank := fun s => s.event.step.left)
    (Q := fun h t => ¬ t.eventRuns arming ∧
      ∃ es r, (r = if arming then .ok else .unit) ∧ t.hist = h ++ es ++ [.ret .event r])
    (fun _ _ _ => ⟨rfl, rfl⟩) (fun s _ ⟨busy, _⟩ => agentEnabled_event busy)
    (fun s t m inv ⟨busy, runs⟩ mine taken => ?_) (fun s t m _ ⟨busy, runs⟩ other noReset taken => ?_) now
  · obtain rfl := stepOf_event mine
    obtain ⟨after, _, returns⟩ := takeMove_event_own (inv.mapped_of_event busy) busy taken
    by_cases idle : t.event.step = .idle
    · obtain ⟨_, _, es, hist⟩ := returns idle
      rw [EventStep.result_of_last busy (after ▸ idle), runs] at hist
      exact .inr ⟨fun ⟨more, _⟩ => more idle, es, _, rfl, hist⟩
    · refine .inl ⟨⟨idle, ?_⟩, after ▸ EventStep.left_after busy⟩
      rw [after] at idle ⊢
      exact (EventStep.arming_after idle).trans runs
  · have kept := event_kept busy other noReset taken
    exact .inl ⟨by unfold State.eventRuns; rw [kept]; exact ⟨busy, runs⟩, by rw [kept]⟩

/-! ## RESET (R132) -/

/-- How many writes RST has before it. -/
def RstStep.left : RstStep → Nat
  | .s1 => 5
  | .s2 => 4
  | .s3 => 3
  | .s4 => 2
  | .s5 => 1
  | .idle => 0
  | .halted => 0

theorem RstStep.after_cases {st : RstStep} (busy : st ≠ .idle) (more : st ≠ .halted) :
    (st.after ≠ .idle ∧ st.after ≠ .halted ∧ st.after.left < st.left) ∨ st.after = .halted := by
  cases st <;> simp [RstStep.after, RstStep.left] at busy more ⊢

theorem agentEnabled_rst (busy : s.rst ≠ .idle) (more : s.rst ≠ .halted) : agentEnabled .rst s := by
  refine ⟨.rst, rfl, ?_⟩
  simp only [enabled, seqInstr, rstInstr]
  cases step : s.rst <;> first | rfl | exact absurd step busy | exact absurd step more

theorem State.Inv.mapped_of_rst (inv : s.Inv) (busy : s.rst ≠ .idle) : s.mapped = true :=
  inv.mapped_of_busy fun idle => busy (agentsIdle_iff.1 idle).2.2.2.1

/-- A RESET under way halts; a system reset cannot come first, since it asks for HALTED (R136). -/
theorem reset_halts (e : Execution states moves) (f : WeaklyFair states moves) (start : (states 0).Inv)
    (now : (states n).resetUnderWay) :
    ∃ m, n ≤ m ∧ (∀ j, n ≤ j → j ≤ m → (states j).resetUnderWay) ∧ (states (m + 1)).rst = .halted := by
  have phase : ∃ m, n ≤ m ∧ (∀ j, n ≤ j → j ≤ m → (states j).resetUnderWay) ∧
      (moves m = .sysreset ∨ (states (m + 1)).rst = .halted) := by
    refine e.leads f start (a := .rst) (P := State.resetUnderWay) (rank := fun s => s.rst.left)
      (Q := fun _ t => t.rst = .halted) (fun _ _ _ => ⟨rfl, rfl⟩) (fun s _ ⟨busy, more⟩ => agentEnabled_rst busy more)
      (fun s t m inv ⟨busy, more⟩ mine taken => ?_) (fun s t m _ ⟨busy, more⟩ other noReset taken => ?_) now
    · obtain rfl := stepOf_rst mine
      have next := takeMove_rst_own (inv.mapped_of_rst busy) busy more taken
      obtain ⟨busy', more', lower⟩ | halted := RstStep.after_cases busy more
      · exact .inl ⟨⟨next ▸ busy', next ▸ more'⟩, next ▸ lower⟩
      · exact .inr (next.trans halted)
    · have kept := takeMove_rst_busy taken busy (fun same => other (same ▸ rfl)) noReset
      exact .inl ⟨⟨kept ▸ busy, kept ▸ more⟩, by rw [kept]⟩
  obtain ⟨m, after, busy, reset | halted⟩ := phase
  · obtain ⟨_, ⟨_, _, rfl⟩, taken⟩ := e.taken m
    rw [reset] at taken
    exact absurd (takeMove_sysreset_halted taken) (busy m after (Nat.le_refl m)).2
  · exact ⟨m, after, busy, halted⟩

/-! ## IRQ_ENTRY (R125) -/

/-- IRQ_ENTRY completes with HANDLED. -/
abbrev HandlerCompletes (states : Nat → State) (moves : Nat → Move) (n : Nat) : Prop :=
  Completes states moves n State.irqEntryUnderWay .irqh (fun r => r = .handled)

/-- A phase of the handler that leads to another one which completes. -/
theorem handler_completes_of_leads {P R : State → Prop} (busy : ∀ s, P s → s.irqEntryUnderWay)
    (phase : ∃ m, n ≤ m ∧ (∀ j, n ≤ j → j ≤ m → P (states j)) ∧ (moves m = .sysreset ∨ R (states (m + 1))))
    (next : ∀ k, R (states k) → HandlerCompletes states moves k) : HandlerCompletes states moves n := by
  obtain ⟨m, after, holds, reset | reached⟩ := phase
  · exact ⟨m, after, fun j low high => busy _ (holds j low high), .inl reset⟩
  · exact (next (m + 1) reached).later after fun j low high => busy _ (holds j low high)

/-- A step of IRQH with IRQH under way is its next step, or the callback's answer at step CB. -/
theorem irqh_step_cases (inv : s.Inv) (busy : s.irqh.step ≠ .idle) (mine : stepOf m = some .irqh)
    (taken : takeMove m s = .next t) :
    (m = .irqh ∧ enabled .irqh s = true) ∨
      (s.irqh.step = .cb ∧ s.irqh.answered = false ∧ ∃ ops, t = s.callback ops) := by
  have able := takeMove_enabled taken
  obtain rfl | ⟨ops, rfl⟩ := stepOf_irqh_active (inv.activeIff.2 busy) mine taken
  · exact .inl ⟨rfl, able⟩
  · obtain ⟨cb, first⟩ : s.irqh.step = .cb ∧ s.irqh.answered = false := by simpa [enabled] using able
    rw [takeMove_answer cb first] at taken
    cases taken
    exact .inr ⟨cb, first, ops, rfl⟩

/-- A phase in which IRQH itself has the next step: `P` speaks of IRQH only, and not of a wait that a return may end. -/
theorem irqh_phase_leads (e : Execution states moves) (f : WeaklyFair states moves) (start : (states 0).Inv)
    {P : IrqSeq → Prop} {Q : List Event → State → Prop} (waitFree : ∀ q : IrqSeq, P q → P { q with wait := none })
    (able : ∀ s : State, P s.irqh → agentEnabled .irqh s)
    (own : ∀ (s t : State) (m : Move), s.Inv → P s.irqh → stepOf m = some .irqh → takeMove m s = .next t → Q s.hist t)
    (now : P (states n).irqh) :
    ∃ m, n ≤ m ∧ (∀ j, n ≤ j → j ≤ m → P (states j).irqh) ∧
      (moves m = .sysreset ∨ Q (states m).hist (states (m + 1))) := by
  refine e.leads f start (a := .irqh) (P := fun s => P s.irqh) (rank := fun _ => 0) (fun _ _ _ => ⟨rfl, rfl⟩)
    (fun s _ => able s) (fun s t m inv holds mine taken => .inr (own s t m inv holds mine taken))
    (fun s t m _ holds other noReset taken => .inl ⟨?_, rfl⟩) now
  obtain same | ended := takeMove_irqh_kept taken other noReset
  · rw [same]
    exact holds
  · rw [ended]
    exact waitFree _ holds

/-- IRQH's next step is enabled but at step CB. -/
theorem agentEnabled_irqh (busy : s.irqh.step ≠ .idle) (notCb : s.irqh.step ≠ .cb) : agentEnabled .irqh s := by
  refine ⟨.irqh, rfl, ?_⟩
  cases step : s.irqh.step
  case idle => exact absurd step busy
  case cb => exact absurd step notCb
  all_goals simp [enabled, step]

/-- RET returns HANDLED (R150). -/
theorem handler_ret_completes (e : Execution states moves) (f : WeaklyFair states moves) (start : (states 0).Inv)
    (now : (states n).irqh.step = .ret) : HandlerCompletes states moves n := by
  refine completes_of_stronger (P := fun s => s.irqh.step = .ret) (fun s ret idle => by simp [ret] at idle)
    (irqh_phase_leads e f start (P := fun q => q.step = .ret)
      (Q := fun h t => ¬ t.irqEntryUnderWay ∧ ∃ es r, r = .handled ∧ t.hist = h ++ es ++ [.ret .irqh r])
      (fun _ => id) (fun s ret => agentEnabled_irqh (by simp [ret]) (by simp [ret]))
      (fun s t m inv ret mine taken => ?_) now)
  obtain ⟨rfl, _⟩ | ⟨cb, _⟩ := irqh_step_cases inv (by simp [ret]) mine taken
  · rw [takeMove_irqh_ret ret] at taken
    cases taken
    exact ⟨fun busy => busy rfl, [], _, rfl, by simp⟩
  · rw [ret] at cb
    cases cb

/-- At step CB the callback has answered, and the operations `ws` are still to be issued. -/
def IrqSeq.issuing (ws : List DWord) (q : IrqSeq) : Prop := q.step = .cb ∧ q.answered = true ∧ q.pendingOps = ws

/-- While IRQH waits at step CB, no step changes it but one that ends the wait. -/
theorem irqh_waiting_kept (inv : s.Inv) (issuing : s.irqh.issuing ws) (waits : s.irqh.wait = some a)
    (noReset : m ≠ .sysreset) (taken : takeMove m s = .next t) :
    t.irqh = s.irqh ∨ t.irqh = { s.irqh with wait := none } := by
  obtain ⟨cb, answered, _⟩ := issuing
  refine takeMove_irqh_kept taken (fun mine => ?_) noReset
  obtain ⟨_, able⟩ | ⟨_, first, _⟩ := irqh_step_cases inv (by simp [cb]) mine taken
  · simp [enabled, cb, waits] at able
  · rw [answered] at first
    cases first

/-- The wait at step CB ends, since the operation that is waited for completes (R125, R179). -/
theorem wait_ends (e : Execution states moves) (f : WeaklyFair states moves) (start : (states 0).Inv)
    (issuing : (states n).irqh.issuing ws) (waits : (states n).irqh.wait = some a) :
    ∃ m, n ≤ m ∧ (∀ j, n ≤ j → j ≤ m → (states j).irqh.issuing ws ∧ (states j).irqh.wait = some a) ∧
      (moves m = .sysreset ∨
        ((states (m + 1)).irqh.issuing ws ∧ (states (m + 1)).irqh.wait = none)) := by
  have kept {s t : State} (holds : s.irqh.issuing ws ∧ s.irqh.wait = some a)
      (irqh : t.irqh = s.irqh ∨ t.irqh = { s.irqh with wait := none }) :
      (t.irqh.issuing ws ∧ t.irqh.wait = some a) ∨ (t.irqh.issuing ws ∧ t.irqh.wait = none) := by
    obtain same | ended := irqh
    · rw [same]
      exact .inl holds
    · rw [ended]
      exact .inr ⟨holds.1, rfl⟩
  have runs (s : State) (inv : s.Inv) (waits : s.irqh.wait = some a) : s.runsForIrqh a :=
    waitOk_iff.1 inv.waitOk a waits
  cases a with
  | event =>
    refine e.leads f start (a := .event) (P := fun s => s.irqh.issuing ws ∧ s.irqh.wait = some .event)
      (rank := fun s => s.event.step.left) (Q := fun _ t => t.irqh.issuing ws ∧ t.irqh.wait = none)
      (fun _ _ _ => ⟨rfl, rfl⟩) (fun s inv holds => agentEnabled_event (runs s inv holds.2).1)
      (fun s t m inv holds mine taken => ?_) (fun s t m inv holds other noReset taken => ?_) ⟨issuing, waits⟩
    · obtain ⟨busy, _⟩ := runs s inv holds.2
      obtain rfl := stepOf_event mine
      obtain ⟨after, goesOn, returns⟩ := takeMove_event_own (inv.mapped_of_event busy) busy taken
      by_cases idle : t.event.step = .idle
      · obtain ⟨ended, irqh, _⟩ := returns idle
        exact .inr ((kept holds irqh).resolve_left fun more => ended more.2)
      · rw [goesOn idle, after]
        exact .inl ⟨holds, EventStep.left_after busy⟩
    · obtain ⟨busy, _⟩ := runs s inv holds.2
      exact (kept holds (irqh_waiting_kept inv holds.1 holds.2 noReset taken)).imp_left
        fun more => ⟨more, by rw [event_kept busy other noReset taken]⟩
  | reader k =>
    refine e.leads f start (a := .reader k) (P := fun s => s.irqh.issuing ws ∧ s.irqh.wait = some (.reader k))
      (rank := State.readerLeft k) (Q := fun _ t => t.irqh.issuing ws ∧ t.irqh.wait = none)
      (fun _ _ _ => ⟨rfl, rfl⟩) (fun s inv holds => ?_) (fun s t m inv holds mine taken => ?_)
      (fun s t m inv holds other noReset taken => ?_) ⟨issuing, waits⟩
    · obtain ⟨r, reader, flight⟩ := runs s inv holds.2
      exact agentEnabled_reader reader (inFlight_iff_left.1 flight)
    · obtain ⟨r, reader, flight⟩ := runs s inv holds.2
      have left := inFlight_iff_left.1 flight
      obtain rfl := stepOf_reader mine
      obtain ⟨cb, _⟩ := holds.1
      have mapped := inv.mapped_of_irqh (by simp [cb])
      obtain ⟨r', reader', lower, goesOn, returns⟩ := takeMove_reader_own mapped reader left taken
      by_cases done : r'.step.left = 0
      · obtain ⟨ended, irqh, _⟩ := returns done
        exact .inr ((kept holds irqh).resolve_left fun more => ended more.2)
      · rw [goesOn done, readerLeft_eq reader, readerLeft_eq reader']
        exact .inl ⟨holds, lower⟩
    · obtain ⟨r, reader, _⟩ := runs s inv holds.2
      exact (kept holds (irqh_waiting_kept inv holds.1 holds.2 noReset taken)).imp_left
        fun more => ⟨more, by simp only [State.readerLeft, reader_kept reader other noReset taken]⟩
  | _ => exact absurd (runs _ (e.inv start n) waits) id

/-- With nothing to wait for, IRQH issues the next operation, or goes to RET (R125, R126). -/
theorem callback_step_leads (e : Execution states moves) (f : WeaklyFair states moves) (start : (states 0).Inv)
    (issuing : (states n).irqh.issuing ws) (free : (states n).irqh.wait = none) :
    ∃ m, n ≤ m ∧ (∀ j, n ≤ j → j ≤ m → (states j).irqh.issuing ws ∧ (states j).irqh.wait = none) ∧
      (moves m = .sysreset ∨ (ws = [] ∧ (states (m + 1)).irqh.step = .ret) ∨
        ∃ w ws', ws = w :: ws' ∧ (states (m + 1)).irqh.issuing ws') := by
  refine irqh_phase_leads e f start (P := fun q => q.issuing ws ∧ q.wait = none)
    (Q := fun _ t => (ws = [] ∧ t.irqh.step = .ret) ∨ ∃ w ws', ws = w :: ws' ∧ t.irqh.issuing ws')
    (fun q holds => ⟨holds.1, rfl⟩)
    (fun s ⟨⟨cb, answered, _⟩, free⟩ => ⟨.irqh, rfl, by simp [enabled, cb, answered, free]⟩)
    (fun s t m inv ⟨⟨cb, answered, ops⟩, free⟩ mine taken => ?_) ⟨issuing, free⟩
  obtain ⟨rfl, _⟩ | ⟨_, first, _⟩ := irqh_step_cases inv (by simp [cb]) mine taken
  · cases ws with
    | nil =>
      rw [takeMove_irqh_callbackDone cb answered free ops] at taken
      cases taken
      exact .inl ⟨rfl, rfl⟩
    | cons w ws' =>
      rw [takeMove_irqh_callback cb answered free] at taken
      obtain ⟨sameStep, sameAnswered, rest⟩ := callbackStep_cons cb ops taken
      exact .inr ⟨w, ws', rfl, sameStep.trans cb, sameAnswered.trans answered, rest⟩
  · rw [answered] at first
    cases first

theorem irqEntryUnderWay_of_issuing (issuing : s.irqh.issuing ws) : s.irqEntryUnderWay := by
  obtain ⟨cb, _⟩ := issuing
  simp [State.irqEntryUnderWay, cb]

/-- With nothing to wait for, the handler completes when it does with one operation fewer. -/
theorem handler_free_completes (e : Execution states moves) (f : WeaklyFair states moves) (start : (states 0).Inv)
    (fewer : ∀ w ws' k, ws = w :: ws' → (states k).irqh.issuing ws' → HandlerCompletes states moves k)
    (issuing : (states n).irqh.issuing ws) (free : (states n).irqh.wait = none) : HandlerCompletes states moves n := by
  refine handler_completes_of_leads (fun s holds => irqEntryUnderWay_of_issuing holds.1)
    (P := fun s => s.irqh.issuing ws ∧ s.irqh.wait = none)
    (R := fun t => (ws = [] ∧ t.irqh.step = .ret) ∨ ∃ w ws', ws = w :: ws' ∧ t.irqh.issuing ws')
    (callback_step_leads e f start issuing free) ?_
  rintro k (⟨_, ret⟩ | ⟨w, ws', split, issuing'⟩)
  · exact handler_ret_completes e f start ret
  · exact fewer w ws' k split issuing'

/-- At step CB the wait, if there is one, ends; so the handler completes when it does with one operation fewer. -/
theorem handler_issuing_completes (e : Execution states moves) (f : WeaklyFair states moves) (start : (states 0).Inv)
    (fewer : ∀ w ws' k, ws = w :: ws' → (states k).irqh.issuing ws' → HandlerCompletes states moves k)
    (issuing : (states n).irqh.issuing ws) : HandlerCompletes states moves n := by
  cases waits : (states n).irqh.wait with
  | none => exact handler_free_completes e f start fewer issuing waits
  | some a =>
    exact handler_completes_of_leads (fun s holds => irqEntryUnderWay_of_issuing holds.1)
      (P := fun s => s.irqh.issuing ws ∧ s.irqh.wait = some a)
      (R := fun t => t.irqh.issuing ws ∧ t.irqh.wait = none) (wait_ends e f start issuing waits)
      fun k reached => handler_free_completes e f start fewer reached.1 reached.2

/-- A callback with a finite answer comes to its end (R126), by induction on what is left to issue. -/
theorem handler_callback_completes (e : Execution states moves) (f : WeaklyFair states moves)
    (start : (states 0).Inv) (issuing : (states n).irqh.issuing ws) : HandlerCompletes states moves n := by
  induction ws generalizing n with
  | nil => exact handler_issuing_completes e f start (fun _ _ _ empty => by cases empty) issuing
  | cons w ws ih =>
    refine handler_issuing_completes e f start (fun _ _ k same issuing' => ?_) issuing
    cases same
    exact ih issuing'

/-- The callback answers, whatever its finite list (R126). -/
theorem handler_cb_completes (e : Execution states moves) (f : WeaklyFair states moves) (start : (states 0).Inv)
    (cb : (states n).irqh.step = .cb) : HandlerCompletes states moves n := by
  cases answered : (states n).irqh.answered with
  | true => exact handler_callback_completes e f start ⟨cb, answered, rfl⟩
  | false =>
    refine handler_completes_of_leads (P := fun s => s.irqh.step = .cb ∧ s.irqh.answered = false)
      (R := fun t => ∃ ws, t.irqh.issuing ws) (fun s holds idle => by simp [holds.1] at idle)
      (irqh_phase_leads e f start (P := fun q => q.step = .cb ∧ q.answered = false)
        (Q := fun _ t => ∃ ws, t.irqh.issuing ws) (fun _ => id)
        (fun s ⟨cb, first⟩ => ⟨.answer [], rfl, by simp [enabled, cb, first]⟩)
        (fun s t m inv ⟨cb, first⟩ mine taken => ?_) ⟨cb, answered⟩)
      fun k ⟨ws, issuing⟩ => handler_callback_completes e f start issuing
    obtain ⟨_, able⟩ | ⟨_, _, ops, rfl⟩ := irqh_step_cases inv (by simp [cb]) mine taken
    · simp [enabled, cb, first] at able
    · exact ⟨ops, cb, rfl, rfl⟩

/-- H1 and H2 lead on to the step after them (R125). -/
theorem handler_write_completes (e : Execution states moves) (f : WeaklyFair states moves) (start : (states 0).Inv)
    {st : IrqStep} (write : st = .h1 ∨ st = .h2) (now : (states n).irqh.step = st)
    (next : ∀ k, (states k).irqh.step = (if st = .h1 then .h2 else .cb) → HandlerCompletes states moves k) :
    HandlerCompletes states moves n := by
  have busy : st ≠ .idle ∧ st ≠ .cb := by obtain rfl | rfl := write <;> decide
  refine handler_completes_of_leads (P := fun s => s.irqh.step = st)
    (R := fun t => t.irqh.step = if st = .h1 then .h2 else .cb)
    (fun s at_st idle => busy.1 (at_st.symm.trans idle))
    (irqh_phase_leads e f start (P := fun q => q.step = st)
      (Q := fun _ t => t.irqh.step = if st = .h1 then .h2 else .cb) (fun _ => id)
      (fun s at_st => agentEnabled_irqh (at_st ▸ busy.1) (at_st ▸ busy.2))
      (fun s t m inv at_st mine taken => ?_) now) next
  subst at_st
  obtain ⟨rfl, _⟩ | ⟨cb, _⟩ := irqh_step_cases inv busy.1 mine taken
  · rw [takeMove_irqh_own (inv.mapped_of_irqh busy.1) write taken]
  · exact absurd cb busy.2

theorem handler_completes (e : Execution states moves) (f : WeaklyFair states moves) (start : (states 0).Inv)
    (now : (states n).irqEntryUnderWay) : HandlerCompletes states moves n := by
  have second {n : Nat} (h2 : (states n).irqh.step = .h2) : HandlerCompletes states moves n :=
    handler_write_completes e f start (.inr rfl) h2 fun k cb => handler_cb_completes e f start cb
  cases step : (states n).irqh.step with
  | idle => exact absurd step now
  | h1 => exact handler_write_completes e f start (.inl rfl) step fun k h2 => second h2
  | h2 => exact second step
  | cb => exact handler_cb_completes e f start step
  | ret => exact handler_ret_completes e f start step

/-- Settles O60, by the fairness to TICK and by the completion of each operation. -/
theorem fairOperationsComplete : Obligations.FairOperationsComplete := by
  intro states moves e f start n
  refine ⟨?_, fun k => read64_completes e f start, ?_, ?_, handler_completes e f start, reset_halts e f start⟩
  · obtain ⟨m, after, tick⟩ := f .tick n fun _ _ => ⟨.tick, rfl, rfl⟩
    exact ⟨m, after, stepOf_tick tick⟩
  · rw [armUnderWay_eq]
    exact event_completes e f start
  · rw [disableUnderWay_eq]
    exact event_completes e f start

end Sys2Proof.Machine
end
